-- ==== Sys2Proof/Word.lean ====
section
/-! DEFINITION. The words that cross the block's ports. Bits are numbered from 0 at the least
significant bit and every value is unsigned (00_scope.md R20). -/

namespace Sys2Proof

/-- One byte: a register address, a type tag, an element count or a u8 register value. -/
abbrev Byte := BitVec 8

/-- A u16 value: WDATA, RDATA, INPUTS_STATE and the value of a notification (30_encoding.md R93). -/
abbrev Half := BitVec 16

/-- The levels of input or strap lines, bit i the level of line i, or a pin word. A snapshot of 16 bits holds
all the lines, so there are at most 16; the bits that are no line are 0 (10_state.md R41; log 19). -/
abbrev Lines := BitVec 16

/-- A host command word (30_encoding.md R91). -/
abbrev CommandWord := BitVec 32

/-- What an agent presents to the block to choose the next step (30_encoding.md R90).
The words are plain numbers, so that one too wide for its port can be handed in and refused by
name (93_implementation_defined.md, after U13). -/
inductive PortInput where
  /-- The command port: the host command word and the data word WDATA. -/
  | command (hcw wdata : Nat)
  /-- An event: its 4-bit label EV and, for PINS, the pin word PV (R100, R101). -/
  | event (ev pv : Nat)
  deriving DecidableEq, Repr

end Sys2Proof
end

