-- ==== Sys2Proof/Config.lean ====
section
/-! DEFINITION. Configuration: the names of the register table and of the mode codes, the type of the
parameters that have a default, and the parameters that have none, which are opaque constants, so that
nothing can be proved of their values. -/

namespace Sys2Proof

/-- The nine registers of the bank (10_state.md R32). -/
inductive Register where
  | inputsState | outputs | inputCatchMode | outputMode
  | reserved0 | reserved1 | reserved2 | reserved3 | evntEnable
  deriving DecidableEq, Repr

/-- CaptureMode, the type of INPUT_CATCH_MODE (30_encoding.md R96). -/
inductive CaptureMode where
  | disabled | onAnyChange | riseOnInput0 | fallOnInput0
  | poll100Hz | poll250Hz | poll500Hz | poll1000Hz | poll2000Hz
  deriving DecidableEq, Repr

/-- The five pulse widths (00_scope.md R16). -/
inductive PulseWidth where
  | us250 | us500 | ms1 | ms2 | ms5
  deriving DecidableEq, Repr

/-- OutputMode, the type of OUTPUT_MODE (30_encoding.md R97). -/
inductive OutputMode where
  | notUsed | toggle | mirrorInput0
  | pulse (width : PulseWidth)
  deriving DecidableEq, Repr

/-- The three interrupt groups (00_scope.md R26). -/
inductive Group where
  | g0 | g1 | g2
  deriving DecidableEq, Repr

/-- BASE_ADDR: every value up to 247, so that the window does not wrap (00_scope.md R14, 20_memory.md R71). -/
abbrev BaseAddr := Fin 248

/-- The parameters with a default that 00_scope.md section 4 and 93_implementation_defined.md U4, U10 and U13
name, and the open STRAP_POS and STRAP_INVERT (10_state.md R40): arguments of the model (log 6, log 7). A value
of this type meets the premises the spec puts on them. Where a rule writes the number of a line or of a bit
for nine inputs and two straps, the model has N_IN and N_STRAP in its place (log 9). -/
structure Params where
  /-- N_IN (R10). -/
  nIn : Nat
  /-- N_STRAP (R11). -/
  nStrap : Nat
  /-- STRAP_POS, strap line 0 first (10_state.md R40). -/
  strapPos : List Nat
  /-- STRAP_INVERT: whether the stored strap bit is the NOT of the level (10_state.md R40). -/
  strapInvert : Bool
  /-- BASE_ADDR (R14). -/
  base : BaseAddr
  /-- REG_OFFSET, in the order of 10_state.md R32 (93_implementation_defined.md U10). -/
  offsets : Vector (Fin 9) 9
  /-- TYPE_U8 (R19). -/
  typeU8 : Byte
  /-- TYPE_U16 (R19). -/
  typeU16 : Byte
  /-- CATCH_CODE, in the order of 30_encoding.md R96 (R19). -/
  catchCodes : Vector Byte 9
  /-- OMODE_CODE, in the order of 30_encoding.md R97 (R19). -/
  omodeCodes : Vector Byte 8
  /-- BASE_HZ (R15). -/
  baseHz : Nat
  /-- DIV, from Poll100Hz to Poll2000Hz (R15). -/
  divisors : Vector Nat 5
  /-- PULSE_US, from Pulse(250µs) to Pulse(5ms), in microseconds (R16). -/
  pulseWidths : Vector Nat 5
  /-- PHASE_W (R17). -/
  phaseW : Nat
  /-- The modes RiseOnInput0, FallOnInput0 and MirrorInput0 name input 0 (30_encoding.md R96, R97). -/
  nInPositive : 0 < nIn
  /-- The inputs and the straps have their places in a snapshot of 16 bits (10_state.md R37). -/
  linesFit : nIn + nStrap ≤ 16
  /-- Each strap line has a position (10_state.md R40). -/
  strapCount : strapPos.length = nStrap
  /-- "two distinct bit positions" (10_state.md R40). -/
  strapDistinct : strapPos.Nodup
  /-- The positions lie above the inputs in the snapshot: in 15:9 by default (10_state.md R40). -/
  strapAbove : ∀ q ∈ strapPos, nIn ≤ q ∧ q < 16
  /-- The nine registers stand at nine consecutive addresses (10_state.md R32). -/
  offsetsDistinct : offsets.toList.Nodup
  /-- "only the distinctness of the two tags matters" (30_encoding.md R94). -/
  tagsDistinct : typeU8 ≠ typeU16
  /-- No code names two CaptureModes (30_encoding.md R96). -/
  catchDistinct : catchCodes.toList.Nodup
  /-- No code names two OutputModes (30_encoding.md R97). -/
  omodeDistinct : omodeCodes.toList.Nodup
  /-- "remainder of natural numbers (b > 0)" (00_scope.md R20). -/
  divisorsPositive : ∀ d ∈ divisors.toList, 0 < d
  deriving DecidableEq, Repr

namespace Config

/-- INSTATE_INIT, the open power-on value of INPUTS_STATE (00_scope.md R18; log 4). -/
opaque instateInit : BitVec 16

/-- The raw input levels at power-on, a draw, of which the N_IN lines take their bits (10_state.md R41; log 5). -/
opaque rawInit : Lines

/-- The strap levels at power-on, a draw, of which the N_STRAP lines take their bits (10_state.md R41; log 5). -/
opaque strapInit : Lines

/-- How far above bit 9 the first strap bit stands in `State.reset`: STRAP_POS[0] is 9 more (10_state.md R40;
log 6). -/
opaque strapFirst : Fin 7

/-- How many positions lie between the first strap bit and the second, counting upwards and around
inside bits 15:9. Six gaps and seven first positions give every pair of distinct positions (log 6). -/
opaque strapGap : Fin 6

/-- STRAP_INVERT of the power-on state `State.reset` (10_state.md R40; log 6). -/
opaque strapInvert : Bool

end Config

end Sys2Proof
end

