-- ==== Sys2Proof/Syntax.lean ====
section
/-! DEFINITION. The instruction set as the spec's opcode table gives it: the eleven step kinds of
00_scope.md R3, with READ, WRITE and the reserved commands split into the table's rows.
A constructor keeps every field of its word, the ignored ones too, so that no bit of a command word
is lost by decoding. -/

namespace Sys2Proof

/-- One constructor per row of spec/opcode_table.json. -/
inductive Instr where
  /-- READ of INPUTS_STATE (40_register_bank.md R123); RSV and COUNT are ignored (R121). -/
  | readInputsState (rsv : BitVec 4) (typ count : Byte)
  /-- WRITE of INPUTS_STATE (40_register_bank.md R124); RSV is ignored. -/
  | writeInputsState (rsv : BitVec 4) (typ count : Byte) (wdata : Half)
  /-- READ of OUTPUTS (40_register_bank.md R125); RSV and COUNT are ignored (R121). -/
  | readOutputs (rsv : BitVec 4) (typ count : Byte)
  /-- WRITE of OUTPUTS (40_register_bank.md R126); RSV is ignored. -/
  | writeOutputs (rsv : BitVec 4) (typ count : Byte) (wdata : Half)
  /-- READ of INPUT_CATCH_MODE (40_register_bank.md R127); RSV and COUNT are ignored (R121). -/
  | readInputCatchMode (rsv : BitVec 4) (typ count : Byte)
  /-- WRITE of INPUT_CATCH_MODE (40_register_bank.md R128); RSV is ignored. -/
  | writeInputCatchMode (rsv : BitVec 4) (typ count : Byte) (wdata : Half)
  /-- READ of OUTPUT_MODE (40_register_bank.md R129); RSV and COUNT are ignored (R121). -/
  | readOutputMode (rsv : BitVec 4) (typ count : Byte)
  /-- WRITE of OUTPUT_MODE (40_register_bank.md R130); RSV is ignored. -/
  | writeOutputMode (rsv : BitVec 4) (typ count : Byte) (wdata : Half)
  /-- READ of RESERVED0 (40_register_bank.md R131); RSV and COUNT are ignored (R121). -/
  | readReserved0 (rsv : BitVec 4) (typ count : Byte)
  /-- WRITE of RESERVED0 (40_register_bank.md R135); RSV is ignored. -/
  | writeReserved0 (rsv : BitVec 4) (typ count : Byte) (wdata : Half)
  /-- READ of RESERVED1 (40_register_bank.md R132); RSV and COUNT are ignored (R121). -/
  | readReserved1 (rsv : BitVec 4) (typ count : Byte)
  /-- WRITE of RESERVED1 (40_register_bank.md R136); RSV is ignored. -/
  | writeReserved1 (rsv : BitVec 4) (typ count : Byte) (wdata : Half)
  /-- READ of RESERVED2 (40_register_bank.md R133); RSV and COUNT are ignored (R121). -/
  | readReserved2 (rsv : BitVec 4) (typ count : Byte)
  /-- WRITE of RESERVED2 (40_register_bank.md R137); RSV is ignored. -/
  | writeReserved2 (rsv : BitVec 4) (typ count : Byte) (wdata : Half)
  /-- READ of RESERVED3 (40_register_bank.md R134); RSV and COUNT are ignored (R121). -/
  | readReserved3 (rsv : BitVec 4) (typ count : Byte)
  /-- WRITE of RESERVED3 (40_register_bank.md R138); RSV is ignored. -/
  | writeReserved3 (rsv : BitVec 4) (typ count : Byte) (wdata : Half)
  /-- READ of EVNT_ENABLE (40_register_bank.md R139); RSV and COUNT are ignored (R121). -/
  | readEvntEnable (rsv : BitVec 4) (typ count : Byte)
  /-- WRITE of EVNT_ENABLE (40_register_bank.md R140); RSV is ignored. -/
  | writeEvntEnable (rsv : BitVec 4) (typ count : Byte) (wdata : Half)
  /-- READ at an address outside the window (40_register_bank.md R141). -/
  | readOutsideWindow (rsv : BitVec 4) (addr typ count : Byte)
  /-- WRITE at an address outside the window (40_register_bank.md R141). -/
  | writeOutsideWindow (rsv : BitVec 4) (addr typ count : Byte) (wdata : Half)
  /-- REINIT; bits 27:0 are ignored (43_control.md R240). -/
  | reinit (ignored : BitVec 28)
  /-- The reserved command code 0x0; bits 27:0 are not examined (40_register_bank.md R142). -/
  | reservedCmd0 (rest : BitVec 28)
  /-- The reserved command codes 0x4 to 0x7; `low` is CMD[1:0] (40_register_bank.md R142). -/
  | reservedCmd4to7 (low : BitVec 2) (rest : BitVec 28)
  /-- The reserved command codes 0x8 to 0xF; `low` is CMD[2:0] (40_register_bank.md R142). -/
  | reservedCmd8toF (low : BitVec 3) (rest : BitVec 28)
  /-- PINS with its pin word (41_capture.md R164, 30_encoding.md R101). -/
  | pins (pv : Lines)
  /-- The EdgeInput0 handler (41_capture.md R168). -/
  | edgeG0
  /-- The EdgeInputs1-5 handler (41_capture.md R169). -/
  | edgeG1
  /-- The EdgeInputs6-8 handler (41_capture.md R170). -/
  | edgeG2
  /-- The 2000 Hz base tick (41_capture.md R171). -/
  | baseTick
  /-- The once-per-second callback (41_capture.md R172). -/
  | secondTick
  /-- The pulse-timer fire handler (42_output.md R205). -/
  | pulseFire
  /-- The catastrophic-fault hook (43_control.md R241). -/
  | forceSafe
  deriving DecidableEq, Repr

end Sys2Proof
end

