-- ==== Sys2Proof/Machine/Params.lean ====
section
/-! DEFINITION. The default parameters, and what the rules make of the parameters: the register table
(40_register_bank.md R120), the type tags, the mode codes, the poll divisors, the pulse durations and the lines. -/

namespace Sys2Proof.Machine

/-- The defaults the spec states (00_scope.md R10, R11, R14 to R17 and R19), with STRAP_POS and STRAP_INVERT,
which have none, left open: any two distinct positions in 15:9 and either polarity (10_state.md R40; log 6). -/
def defaultParams : Params where
  nIn := 9
  nStrap := 2
  strapPos := [9 + Config.strapFirst.val, 9 + (Config.strapFirst.val + 1 + Config.strapGap.val) % 7]
  strapInvert := Config.strapInvert
  base := 32
  offsets := #v[0, 1, 2, 3, 4, 5, 6, 7, 8]
  typeU8 := 0x01#8
  typeU16 := 0x02#8
  catchCodes := #v[0#8, 1#8, 2#8, 3#8, 4#8, 5#8, 6#8, 7#8, 8#8]
  omodeCodes := #v[0#8, 1#8, 2#8, 3#8, 4#8, 5#8, 6#8, 7#8]
  baseHz := 2000
  divisors := #v[20, 8, 4, 2, 1]
  pulseWidths := #v[250, 500, 1000, 2000, 5000]
  phaseW := 16
  nInPositive := by decide
  linesFit := by decide
  strapCount := rfl
  strapDistinct := by
    have := Config.strapFirst.isLt
    have := Config.strapGap.isLt
    simp
    omega
  strapAbove := by
    have := Config.strapFirst.isLt
    simp
    omega
  offsetsDistinct := by decide
  tagsDistinct := by decide
  catchDistinct := by decide
  omodeDistinct := by decide
  divisorsPositive := by decide

/-- Address validity, on the 8-bit address and with no wrap-around (20_memory.md R71). -/
def validAddr (p : Params) (a : Byte) : Bool :=
  decide (p.base.val ≤ a.toNat ∧ a.toNat ≤ p.base.val + 8)

/-- The registers in the order of 10_state.md R32. -/
def registers : List Register :=
  [.inputsState, .outputs, .inputCatchMode, .outputMode, .reserved0, .reserved1, .reserved2, .reserved3,
    .evntEnable]

/-- A register's offset in the window (10_state.md R32, 30_encoding.md R95). -/
def registerOffset (p : Params) : Register → Fin 9
  | .inputsState => p.offsets[0]
  | .outputs => p.offsets[1]
  | .inputCatchMode => p.offsets[2]
  | .outputMode => p.offsets[3]
  | .reserved0 => p.offsets[4]
  | .reserved1 => p.offsets[5]
  | .reserved2 => p.offsets[6]
  | .reserved3 => p.offsets[7]
  | .evntEnable => p.offsets[8]

/-- ADDR = BASE_ADDR + offset (30_encoding.md R95). -/
def registerAddr (p : Params) (r : Register) : Byte :=
  BitVec.ofNat 8 (p.base.val + (registerOffset p r).val)

/-- The register an address selects, `none` outside the window (20_memory.md R70, R71). -/
def registerAt (p : Params) (a : Byte) : Option Register :=
  if validAddr p a then registers.find? fun r => registerAddr p r == a else none

/-- The tag column of the register table (40_register_bank.md R120). -/
def elementTag (p : Params) : Register → Byte
  | .inputsState => p.typeU16
  | .outputs => p.typeU8
  | .inputCatchMode => p.typeU8
  | .outputMode => p.typeU8
  | .reserved0 => p.typeU8
  | .reserved1 => p.typeU8
  | .reserved2 => p.typeU8
  | .reserved3 => p.typeU8
  | .evntEnable => p.typeU8

/-- The count column of the register table: 1 for every register, an element count
(40_register_bank.md R120, 90_conflicts.md C1). -/
def elementCount (_ : Register) : Byte := 1#8

/-- The CaptureModes in the order of 30_encoding.md R96. -/
def captureModes : List CaptureMode :=
  [.disabled, .onAnyChange, .riseOnInput0, .fallOnInput0, .poll100Hz, .poll250Hz, .poll500Hz,
    .poll1000Hz, .poll2000Hz]

/-- The code of a CaptureMode (30_encoding.md R96). -/
def captureCode (p : Params) : CaptureMode → Byte
  | .disabled => p.catchCodes[0]
  | .onAnyChange => p.catchCodes[1]
  | .riseOnInput0 => p.catchCodes[2]
  | .fallOnInput0 => p.catchCodes[3]
  | .poll100Hz => p.catchCodes[4]
  | .poll250Hz => p.catchCodes[5]
  | .poll500Hz => p.catchCodes[6]
  | .poll1000Hz => p.catchCodes[7]
  | .poll2000Hz => p.catchCodes[8]

/-- The CaptureMode a code names, `none` for a code that names none (30_encoding.md R96). -/
def captureMode? (p : Params) (code : Byte) : Option CaptureMode :=
  captureModes.find? fun m => captureCode p m == code

/-- The OutputModes in the order of 30_encoding.md R97. -/
def outputModes : List OutputMode :=
  [.notUsed, .toggle, .mirrorInput0, .pulse .us250, .pulse .us500, .pulse .ms1, .pulse .ms2, .pulse .ms5]

/-- The code of an OutputMode (30_encoding.md R97). -/
def outputCode (p : Params) : OutputMode → Byte
  | .notUsed => p.omodeCodes[0]
  | .toggle => p.omodeCodes[1]
  | .mirrorInput0 => p.omodeCodes[2]
  | .pulse .us250 => p.omodeCodes[3]
  | .pulse .us500 => p.omodeCodes[4]
  | .pulse .ms1 => p.omodeCodes[5]
  | .pulse .ms2 => p.omodeCodes[6]
  | .pulse .ms5 => p.omodeCodes[7]

/-- The OutputMode a code names, `none` for a code that names none (30_encoding.md R97). -/
def outputMode? (p : Params) (code : Byte) : Option OutputMode :=
  outputModes.find? fun m => outputCode p m == code

/-- DIV of a poll mode, `none` for the other modes (00_scope.md R15, 41_capture.md R162). -/
def pollDivisor (p : Params) : CaptureMode → Option Nat
  | .disabled => none
  | .onAnyChange => none
  | .riseOnInput0 => none
  | .fallOnInput0 => none
  | .poll100Hz => some p.divisors[0]
  | .poll250Hz => some p.divisors[1]
  | .poll500Hz => some p.divisors[2]
  | .poll1000Hz => some p.divisors[3]
  | .poll2000Hz => some p.divisors[4]

/-- The rate a poll mode samples at, in hertz: "divisor = base/target" (00_scope.md R15). It is intent and no
rule depends on it (70_reset_and_hazards.md R301). -/
def pollRateHz (p : Params) (m : CaptureMode) : Option Nat :=
  (pollDivisor p m).map (p.baseHz / ·)

/-- PULSE_US of a pulse mode, in microseconds (00_scope.md R16). -/
def pulseUs (p : Params) : PulseWidth → Nat
  | .us250 => p.pulseWidths[0]
  | .us500 => p.pulseWidths[1]
  | .ms1 => p.pulseWidths[2]
  | .ms2 => p.pulseWidths[3]
  | .ms5 => p.pulseWidths[4]

/-- The poll-phase counter after one more tick: modulo 2^PHASE_W (41_capture.md R171). -/
def nextPhase (p : Params) (phase : Nat) : Nat := (phase + 1) % 2 ^ p.phaseW

/-- The interrupt group of a line: G0 is line 0, G1 is lines 1 to 5, and G2 is the lines from 6 on, which end
at 8 by default (00_scope.md R26; log 9). -/
def lineGroup (i : Nat) : Group :=
  if i = 0 then .g0 else if i ≤ 5 then .g1 else .g2

/-- The lines of an interrupt group (00_scope.md R26). -/
def groupLines (p : Params) (g : Group) : List Nat :=
  (List.range p.nIn).filter fun i => lineGroup i = g

/-- The width of a pin word: 11 by default (30_encoding.md R101). -/
def pinBits (p : Params) : Nat := p.nIn + p.nStrap

/-- The word whose low `n` bits are 1. -/
def lowMask (n : Nat) : Lines := BitVec.ofNat 16 (2 ^ n - 1)

/-- The bits of a snapshot that the inputs have: the mask 0x1FF by default (10_state.md R39). -/
def inputMask (p : Params) : Lines := lowMask p.nIn

end Sys2Proof.Machine
end

