-- ==== Sys2Proof/WellFormed.lean ====
section
/-! DEFINITION. Well-formed instructions. Every field of a host command has the width of its field in the
command word, so a term can get two things wrong: an outside-window row may have an address inside the
window (the table's "lowest priority" note), and a pin word may have a bit that is no line. -/

namespace Sys2Proof

/-- The outside-window rows apply only to an address with `not valid(a)` (40_register_bank.md R141), and a pin
word has N_IN + N_STRAP bits, 11 by default (30_encoding.md R101). -/
def Instr.wellFormed (p : Params) : Instr → Bool
  | .readOutsideWindow _ addr _ _ => !Machine.validAddr p addr
  | .writeOutsideWindow _ addr _ _ _ => !Machine.validAddr p addr
  | .readInputsState .. => true
  | .writeInputsState .. => true
  | .readOutputs .. => true
  | .writeOutputs .. => true
  | .readInputCatchMode .. => true
  | .writeInputCatchMode .. => true
  | .readOutputMode .. => true
  | .writeOutputMode .. => true
  | .readReserved0 .. => true
  | .writeReserved0 .. => true
  | .readReserved1 .. => true
  | .writeReserved1 .. => true
  | .readReserved2 .. => true
  | .writeReserved2 .. => true
  | .readReserved3 .. => true
  | .writeReserved3 .. => true
  | .readEvntEnable .. => true
  | .writeEvntEnable .. => true
  | .reinit _ => true
  | .reservedCmd0 _ => true
  | .reservedCmd4to7 _ _ => true
  | .reservedCmd8toF _ _ => true
  | .pins pv => decide (pv.toNat < 2 ^ Machine.pinBits p)
  | .edgeG0 => true
  | .edgeG1 => true
  | .edgeG2 => true
  | .baseTick => true
  | .secondTick => true
  | .pulseFire => true
  | .forceSafe => true

/-- The Prop the statements use. -/
abbrev Instr.WellFormed (p : Params) (i : Instr) : Prop := i.wellFormed p = true

end Sys2Proof
end

