-- ==== Sys2Proof/Decode.lean ====
section
/-! DEFINITION. The decoder of the port's words, total and rejecting by name, and after it the encoder
(30_encoding.md R91, R92, R100 to R102). -/

namespace Sys2Proof

/-- Why an input decodes to no instruction. -/
inductive DecodeError where
  /-- A number wider than its port: outside the HCW, WDATA, EV or PV format
  (93_implementation_defined.md, after U13). -/
  | outsidePortFormat
  /-- An event label 0x0 or 0x9 to 0xF, which names no step (30_encoding.md R100). -/
  | unnamedEventLabel
  deriving DecidableEq, Repr

/-- CMD, bits 31:28 of the host command word (30_encoding.md R91). -/
def hcwCmd (h : CommandWord) : BitVec 4 := h.extractLsb' 28 4

/-- RSV, bits 27:24. -/
def hcwRsv (h : CommandWord) : BitVec 4 := h.extractLsb' 24 4

/-- ADDR, bits 23:16. -/
def hcwAddr (h : CommandWord) : Byte := h.extractLsb' 16 8

/-- TYPE, bits 15:8. -/
def hcwType (h : CommandWord) : Byte := h.extractLsb' 8 8

/-- COUNT, bits 7:0. -/
def hcwCount (h : CommandWord) : Byte := h.extractLsb' 0 8

/-- Bits 27:0, everything below CMD. -/
def hcwRest (h : CommandWord) : BitVec 28 := h.extractLsb' 0 28

/-- CMD = 0x1: ADDR selects the register's row or, outside the window, R141's (30_encoding.md R102). -/
def decodeRead (p : Params) (rsv : BitVec 4) (addr typ count : Byte) : Instr :=
  match Machine.registerAt p addr with
  | none => .readOutsideWindow rsv addr typ count
  | some .inputsState => .readInputsState rsv typ count
  | some .outputs => .readOutputs rsv typ count
  | some .inputCatchMode => .readInputCatchMode rsv typ count
  | some .outputMode => .readOutputMode rsv typ count
  | some .reserved0 => .readReserved0 rsv typ count
  | some .reserved1 => .readReserved1 rsv typ count
  | some .reserved2 => .readReserved2 rsv typ count
  | some .reserved3 => .readReserved3 rsv typ count
  | some .evntEnable => .readEvntEnable rsv typ count

/-- CMD = 0x2: as `decodeRead`, with the data word (30_encoding.md R102). -/
def decodeWrite (p : Params) (rsv : BitVec 4) (addr typ count : Byte) (wdata : Half) : Instr :=
  match Machine.registerAt p addr with
  | none => .writeOutsideWindow rsv addr typ count wdata
  | some .inputsState => .writeInputsState rsv typ count wdata
  | some .outputs => .writeOutputs rsv typ count wdata
  | some .inputCatchMode => .writeInputCatchMode rsv typ count wdata
  | some .outputMode => .writeOutputMode rsv typ count wdata
  | some .reserved0 => .writeReserved0 rsv typ count wdata
  | some .reserved1 => .writeReserved1 rsv typ count wdata
  | some .reserved2 => .writeReserved2 rsv typ count wdata
  | some .reserved3 => .writeReserved3 rsv typ count wdata
  | some .evntEnable => .writeEvntEnable rsv typ count wdata

/-- A host command word is decoded by CMD alone, and every word decodes (30_encoding.md R92, R102).
WDATA is taken with a WRITE and ignored otherwise (R91; log 17). -/
def decodeCommand (p : Params) (h : CommandWord) (wdata : Half) : Instr :=
  match (hcwCmd h).toNat with
  | 0 => .reservedCmd0 (hcwRest h)
  | 1 => decodeRead p (hcwRsv h) (hcwAddr h) (hcwType h) (hcwCount h)
  | 2 => decodeWrite p (hcwRsv h) (hcwAddr h) (hcwType h) (hcwCount h) wdata
  | 3 => .reinit (hcwRest h)
  | 4 => .reservedCmd4to7 0#2 (hcwRest h)
  | 5 => .reservedCmd4to7 1#2 (hcwRest h)
  | 6 => .reservedCmd4to7 2#2 (hcwRest h)
  | 7 => .reservedCmd4to7 3#2 (hcwRest h)
  | _ => .reservedCmd8toF (h.extractLsb' 28 3) (hcwRest h)

/-- The event labels (30_encoding.md R100); PV is taken with PINS and ignored otherwise (R101; log 17). -/
def decodeEvent (ev : BitVec 4) (pv : Lines) : Except DecodeError Instr :=
  match ev.toNat with
  | 1 => .ok (.pins pv)
  | 2 => .ok .edgeG0
  | 3 => .ok .edgeG1
  | 4 => .ok .edgeG2
  | 5 => .ok .baseTick
  | 6 => .ok .secondTick
  | 7 => .ok .pulseFire
  | 8 => .ok .forceSafe
  | _ => .error .unnamedEventLabel

/-- The decoder of a block with the parameters `p`: an instruction, or the named reason why
there is none. -/
def decode (p : Params) : PortInput → Except DecodeError Instr
  | .command hcw wdata =>
    if hcw < 2 ^ 32 ∧ wdata < 2 ^ 16 then
      .ok (decodeCommand p (BitVec.ofNat 32 hcw) (BitVec.ofNat 16 wdata))
    else .error .outsidePortFormat
  | .event ev pv =>
    if ev < 2 ^ 4 ∧ pv < 2 ^ Machine.pinBits p then
      decodeEvent (BitVec.ofNat 4 ev) (BitVec.ofNat 16 pv)
    else .error .outsidePortFormat

/-- An instruction of the opcode table laid out as a port input. A row of at most 16 bits is an event
(EV in bits 3:0, PV above it); a longer one is a command (HCW in bits 31:0, WDATA above it; log 21). -/
def tableInput (nbits w : Nat) : PortInput :=
  if nbits ≤ 16 then .event (w % 2 ^ 4) (w / 2 ^ 4) else .command (w % 2 ^ 32) (w / 2 ^ 32)

/-- The instruction the decoder reads from a word numbered as spec/opcode_table.json numbers it. The
table's rows are written for the default parameters. -/
def decodeTableWord (nbits w : Nat) : Option Instr :=
  match decode Machine.defaultParams (tableInput nbits w) with
  | .ok i => some i
  | .error _ => none

/-- The host command word of its five fields (30_encoding.md R91). -/
def hcw (cmd rsv : BitVec 4) (addr typ count : Byte) : CommandWord :=
  cmd ++ rsv ++ addr ++ typ ++ count

/-- A command word of CMD and the 28 bits below it. -/
def hcwOfRest (cmd : BitVec 4) (rest : BitVec 28) : CommandWord := cmd ++ rest

/-- READ of a register: CMD = 0x1 (30_encoding.md R92, R105). -/
def encodeRead (p : Params) (r : Register) (rsv : BitVec 4) (typ count : Byte) : PortInput :=
  .command (hcw 0x1#4 rsv (Machine.registerAddr p r) typ count).toNat 0

/-- WRITE of a register: CMD = 0x2 with WDATA (30_encoding.md R92, R105). -/
def encodeWrite (p : Params) (r : Register) (rsv : BitVec 4) (typ count : Byte) (wdata : Half) :
    PortInput :=
  .command (hcw 0x2#4 rsv (Machine.registerAddr p r) typ count).toNat wdata.toNat

/-- The words of an instruction. WDATA and PV are 0 where the instruction does not take them. -/
def encode (p : Params) : Instr → PortInput
  | .readInputsState rsv typ count => encodeRead p .inputsState rsv typ count
  | .writeInputsState rsv typ count wdata => encodeWrite p .inputsState rsv typ count wdata
  | .readOutputs rsv typ count => encodeRead p .outputs rsv typ count
  | .writeOutputs rsv typ count wdata => encodeWrite p .outputs rsv typ count wdata
  | .readInputCatchMode rsv typ count => encodeRead p .inputCatchMode rsv typ count
  | .writeInputCatchMode rsv typ count wdata => encodeWrite p .inputCatchMode rsv typ count wdata
  | .readOutputMode rsv typ count => encodeRead p .outputMode rsv typ count
  | .writeOutputMode rsv typ count wdata => encodeWrite p .outputMode rsv typ count wdata
  | .readReserved0 rsv typ count => encodeRead p .reserved0 rsv typ count
  | .writeReserved0 rsv typ count wdata => encodeWrite p .reserved0 rsv typ count wdata
  | .readReserved1 rsv typ count => encodeRead p .reserved1 rsv typ count
  | .writeReserved1 rsv typ count wdata => encodeWrite p .reserved1 rsv typ count wdata
  | .readReserved2 rsv typ count => encodeRead p .reserved2 rsv typ count
  | .writeReserved2 rsv typ count wdata => encodeWrite p .reserved2 rsv typ count wdata
  | .readReserved3 rsv typ count => encodeRead p .reserved3 rsv typ count
  | .writeReserved3 rsv typ count wdata => encodeWrite p .reserved3 rsv typ count wdata
  | .readEvntEnable rsv typ count => encodeRead p .evntEnable rsv typ count
  | .writeEvntEnable rsv typ count wdata => encodeWrite p .evntEnable rsv typ count wdata
  | .readOutsideWindow rsv addr typ count => .command (hcw 0x1#4 rsv addr typ count).toNat 0
  | .writeOutsideWindow rsv addr typ count wdata =>
    .command (hcw 0x2#4 rsv addr typ count).toNat wdata.toNat
  | .reinit ignored => .command (hcwOfRest 0x3#4 ignored).toNat 0
  | .reservedCmd0 rest => .command (hcwOfRest 0x0#4 rest).toNat 0
  | .reservedCmd4to7 low rest => .command (hcwOfRest (0b01#2 ++ low) rest).toNat 0
  | .reservedCmd8toF low rest => .command (hcwOfRest (0b1#1 ++ low) rest).toNat 0
  | .pins pv => .event 0x1 pv.toNat
  | .edgeG0 => .event 0x2 0
  | .edgeG1 => .event 0x3 0
  | .edgeG2 => .event 0x4 0
  | .baseTick => .event 0x5 0
  | .secondTick => .event 0x6 0
  | .pulseFire => .event 0x7 0
  | .forceSafe => .event 0x8 0

end Sys2Proof
end

