-- ==== Sys2Proof/Machine/State.lean ====
section
/-! DEFINITION. The state of SYNC-CORE (10_state.md R30, R41, R48), the model's own two lists (the
port's answers and the order of steps), the reasons a step can stop, and the state after reset. -/

namespace Sys2Proof.Machine

/-- Edge-interrupt arming of one input line (10_state.md R42). -/
inductive EdgeArm where
  | off | rise | fall | both
  deriving DecidableEq, Repr

/-- The pending flags PEND[0..2], one per interrupt group (10_state.md R43). -/
structure Pending where
  g0 : Bool
  g1 : Bool
  g2 : Bool
  deriving DecidableEq, Repr

/-- The one-shot pulse timer: Idle, or Armed(d) with the duration it was last armed with, in
microseconds (10_state.md R45). -/
inductive Timer where
  | idle
  | armed (us : Nat)
  deriving DecidableEq, Repr

/-- The internal failure reasons (60_exceptions.md R260). -/
inductive FailReason where
  | invalidAddress | typeMismatch | elementCountMismatch | invalidEnumValue
  | reservedRegisterWrite | readOnlyRegisterWrite | invalidCommand
  deriving DecidableEq, Repr

/-- A host command's response: `Ok(data)` or `Fail(reason)` (00_scope.md R22). Only the OK bit and
RDATA are on the port (30_encoding.md R93). -/
inductive Response where
  | ok (data : Half)
  | fail (reason : FailReason)
  deriving DecidableEq, Repr

/-- A record of the notification output (10_state.md R48). -/
structure Notification where
  addr : Byte
  value : Half
  deriving DecidableEq, Repr

/-- The sources whose handler steps have an enabling condition (60_exceptions.md R266). -/
inductive HandlerSource where
  | edgeGroup (g : Group)
  | pulseTimer
  deriving DecidableEq, Repr

/-- Stuck states: the spec has no step here (00_scope.md R23). The block itself never faults. -/
inductive Fault where
  /-- Raised by EDGE_G0, EDGE_G1, EDGE_G2 and PULSE_FIRE when the source is not pending: "a step whose
  enabling condition is false cannot be taken" (00_scope.md R23). Safe (log 3). -/
  | stepNotEnabled (source : HandlerSource)
  /-- Raised by `step` when no agent has chosen a step: the block waits for steps
  (70_reset_and_hazards.md R291). Safe (log 2). -/
  | noStepChosen
  deriving DecidableEq, Repr

/-- Inputs without a meaning. -/
inductive Refusal where
  /-- Raised by an arm of `exec` that has no meaning yet; no arm of this model uses it. Safe. -/
  | notModelled (mnemonic : String)
  /-- Raised by `step` on a number too wide for its port, which cannot arise from the port
  (93_implementation_defined.md, after U13). Safe (log 18). -/
  | outsidePortFormat
  /-- Raised by `step` on an event label that names no step (30_encoding.md R100). Safe. -/
  | unnamedEventLabel
  deriving DecidableEq, Repr

/-- The complete state (10_state.md R30), with the environment inputs (R41), the notification output
(R48), the port's answers (30_encoding.md R93) and the chosen order of steps (00_scope.md R4). -/
structure State where
  /-- The parameters, configuration and no state of the block (R30): an argument of every meaning, which
  no step writes (00_scope.md section 4; log 7). -/
  params : Params
  /-- OUT, the authoritative output bit (R33). -/
  out : BitVec 1
  /-- CATCH, the INPUT_CATCH_MODE code (R34). -/
  catchCode : Byte
  /-- OMODE, the OUTPUT_MODE code (R35). -/
  omode : Byte
  /-- EVEN, the EVNT_ENABLE value (R36). -/
  even : Byte
  /-- INSTATE, the INPUTS_STATE snapshot (R37). -/
  instate : Half
  /-- ARM, line 0 first (R42): of the N_IN lines in every reachable state. -/
  arm : List EdgeArm
  /-- PEND[0..2] (R43). -/
  pend : Pending
  /-- PHASE, an unsigned number of PHASE_W bits (R44): below 2^PHASE_W in every reachable state. -/
  phase : Nat
  /-- TMR (R45). -/
  tmr : Timer
  /-- RAW, the raw input levels (R41): of the N_IN lines in every reachable state. -/
  raw : Lines
  /-- STRAP, the strap levels (R41): of the N_STRAP lines in every reachable state. -/
  strap : Lines
  /-- The notification output, oldest first; no rule reads it (R48). -/
  notifications : List Notification
  /-- The model's own: the responses given on the command port, oldest first (log 10). -/
  responses : List Response
  /-- The model's own: the steps the agents have chosen and not yet taken, next first (log 1). -/
  inputs : List PortInput
  deriving DecidableEq, Repr

/-- The state at power-on of a block with the parameters `p` (10_state.md R51, 70_reset_and_hazards.md
R290). The draws are the opaque parameters of Config (log 4, log 5). -/
def State.powerOn (p : Params) : State where
  params := p
  out := 0#1
  catchCode := captureCode p .onAnyChange
  omode := outputCode p .toggle
  even := 0x01#8
  instate := Config.instateInit
  arm := List.replicate p.nIn .both
  pend := ⟨false, false, false⟩
  phase := 0
  tmr := .idle
  raw := Config.rawInit &&& inputMask p
  strap := Config.strapInit &&& lowMask p.nStrap
  notifications := []
  responses := []
  inputs := []

/-- The state after reset, with the default parameters (00_scope.md R10 to R19). -/
def State.reset : State := State.powerOn defaultParams

end Sys2Proof.Machine
end

