-- ==== Sys2Proof/Machine/Operands.lean ====
section
/-! DEFINITION. Operand assembly: the write payload, the read data, the pin word and the snapshot
(30_encoding.md R93, R98, R99, R101; 41_capture.md R160). -/

namespace Sys2Proof.Machine

/-- The bytes of a 16-bit word on the port, little-endian (20_memory.md R73; log 11). -/
def portBytes (v : Half) : List Byte := [v.extractLsb' 0 8, v.extractLsb' 8 8]

/-- The byte list of a WRITE (30_encoding.md R98). -/
def payload (wdata : Half) : List Byte := portBytes wdata

/-- Element 0 of a u8 write: `bytes[0]` (30_encoding.md R98). -/
def elementU8 (bytes : List Byte) : Byte := bytes.getD 0 0#8

/-- Element 0 of a u16 write: `(bytes[1], bytes[0])`, the second byte on top (30_encoding.md R98). -/
def elementU16 (bytes : List Byte) : Half := bytes.getD 1 0#8 ++ bytes.getD 0 0#8

/-- RDATA of a u8 value (30_encoding.md R93, R99). -/
def rdataOfByte (v : Byte) : Half := v.zeroExtend 16

/-- RAW of a pin word, its low N_IN bits: PV[8:0] by default (30_encoding.md R101). -/
def pvRaw (p : Params) (pv : Lines) : Lines := pv &&& inputMask p

/-- STRAP of a pin word, the N_STRAP bits above RAW: PV[10:9] by default (30_encoding.md R101). -/
def pvStrap (p : Params) (pv : Lines) : Lines := (pv >>> p.nIn) &&& lowMask p.nStrap

/-- The pin word of RAW and STRAP (30_encoding.md R101, R105). -/
def pinWord (p : Params) (raw strap : Lines) : Lines := raw ||| strap <<< p.nIn

/-- The strap lines from `j` on at their positions, inverted if STRAP_INVERT (41_capture.md R160). -/
def strapBits (invert : Bool) (strap : Lines) : List Nat → Nat → Half
  | [], _ => 0#16
  | q :: rest, j =>
    (if strap.getLsbD j ^^ invert then 1#16 <<< q else 0#16) ||| strapBits invert strap rest (j + 1)

/-- The snapshot of the pin levels: bit i is NOT RAW[i] for each input i, the strap bits stand at STRAP_POS
and every other bit is 0 (41_capture.md R160). -/
def mkSnapshot (p : Params) (raw strap : Lines) : Half :=
  (~~~raw &&& inputMask p) ||| strapBits p.strapInvert strap p.strapPos 0

/-- NOT RAW[0], the bit of the MirrorInput0 mode (42_output.md R203, R213). -/
def mirrorBit (raw : Lines) : BitVec 1 := ~~~(raw.extractLsb' 0 1)

/-- ARM[i]; a line that is not there is disarmed. -/
def lineArm (arm : List EdgeArm) (i : Nat) : EdgeArm := arm.getD i .off

/-- An edge against an arming, from the old and the new raw level (41_capture.md R165). -/
def edgeMatch : EdgeArm → Bool → Bool → Bool
  | .off, _, _ => false
  | .both, o, n => o != n
  | .rise, o, n => !o && n
  | .fall, o, n => o && !n

/-- The arming of the N_IN lines under a mode code; a code that is no CaptureMode arms nothing (log 15)
(41_capture.md R162). -/
def armCfg (p : Params) (code : Byte) : List EdgeArm :=
  match captureMode? p code with
  | some .onAnyChange => List.replicate p.nIn .both
  | some .riseOnInput0 => .rise :: List.replicate (p.nIn - 1) .off
  | some .fallOnInput0 => .fall :: List.replicate (p.nIn - 1) .off
  | some .disabled => List.replicate p.nIn .off
  | some .poll100Hz => List.replicate p.nIn .off
  | some .poll250Hz => List.replicate p.nIn .off
  | some .poll500Hz => List.replicate p.nIn .off
  | some .poll1000Hz => List.replicate p.nIn .off
  | some .poll2000Hz => List.replicate p.nIn .off
  | none => List.replicate p.nIn .off

/-- Whether some line of the group is armed. -/
def groupArmed (p : Params) (arm : List EdgeArm) (g : Group) : Bool :=
  (groupLines p g).any fun i => lineArm arm i != .off

/-- Whether a change of the raw levels makes an armed edge on a line of the group (41_capture.md R164). -/
def groupEdge (p : Params) (arm : List EdgeArm) (old new : Lines) (g : Group) : Bool :=
  (groupLines p g).any fun i => edgeMatch (lineArm arm i) (old.getLsbD i) (new.getLsbD i)

/-- The output pin's level is OUT at every instant (10_state.md R47). -/
def outputPin (s : State) : BitVec 1 := s.out

end Sys2Proof.Machine
end

