-- ==== Sys2Proof/Machine/Flags.lean ====
section
/-! DEFINITION. The one-bit status values: the OK bit of a response and the pending flags. There are no
condition codes and no step sets a flag as a side effect of arithmetic (10_state.md R49). -/

namespace Sys2Proof.Machine

/-- The OK bit of the response: 1 = the command succeeded (30_encoding.md R93). -/
def okBit : Response → BitVec 1
  | .ok _ => 1#1
  | .fail _ => 0#1

/-- RDATA of the response: 0x0000 on a failure (30_encoding.md R93). -/
def rdata : Response → Half
  | .ok data => data
  | .fail _ => 0#16

/-- The code of a failure reason (60_exceptions.md R260). -/
def failCode : FailReason → Nat
  | .invalidAddress => 1
  | .typeMismatch => 2
  | .elementCountMismatch => 3
  | .invalidEnumValue => 4
  | .reservedRegisterWrite => 5
  | .readOnlyRegisterWrite => 6
  | .invalidCommand => 7

/-- PEND[g]. -/
def pending (p : Pending) : Group → Bool
  | .g0 => p.g0
  | .g1 => p.g1
  | .g2 => p.g2

/-- PEND with every flag given by a function of its group. -/
def pendingOf (f : Group → Bool) : Pending := ⟨f .g0, f .g1, f .g2⟩

/-- PEND[g] <- v. -/
def setPending (p : Pending) (g : Group) (v : Bool) : Pending :=
  pendingOf fun k => if k = g then v else pending p k

/-- EVT_EN, bit 0 of EVNT_ENABLE (10_state.md R36). -/
def eventsEnabled (s : State) : Bool := s.even.getLsbD 0

/-- Whether a pulse countdown is pending: TMR = Armed(_). -/
def timerArmed : Timer → Bool
  | .idle => false
  | .armed _ => true

end Sys2Proof.Machine
end

