-- ==== Sys2Proof/Machine/Ops.lean ====
section
/-! DEFINITION. The named operations over the state that several instructions share. -/

namespace Sys2Proof.Machine

/-! ## The ports -/

/-- The response of a host command, given in the command's own step (20_memory.md R80). -/
def respond (r : Response) (s : State) : State :=
  { s with responses := s.responses ++ [r] }

/-- `raise Fail(reason)`: the block's only exception. It answers OK = 0, records the reason, changes no
state and transfers control nowhere (00_scope.md R22; 60_exceptions.md R262, R263, R269). -/
def failCommand (reason : FailReason) (s : State) : State := respond (.fail reason) s

/-- `emit Notify(a, v)` (00_scope.md R22). -/
def emitNotify (addr : Byte) (value : Half) (s : State) : State :=
  { s with notifications := s.notifications ++ [⟨addr, value⟩] }

/-! ## The pulse timer and the output bit -/

/-- `TimerArm(d)` (10_state.md R45). -/
def timerArm (us : Nat) (s : State) : State := { s with tmr := .armed us }

/-- `TimerDisarm()` (10_state.md R45). -/
def timerDisarm (s : State) : State := { s with tmr := .idle }

/-- `S.OUT <- b`; the output pin follows (10_state.md R47). -/
def setOut (b : BitVec 1) (s : State) : State := { s with out := b }

/-! ## Arming and handler entry -/

/-- `ApplyArming(c)`: the lines take the mode's arming, and a group left with no armed line loses its
pending flag (41_capture.md R163). -/
def applyArming (code : Byte) (s : State) : State :=
  { s with
    arm := armCfg s.params code
    pend := pendingOf fun g => groupArmed s.params (armCfg s.params code) g && pending s.pend g }

/-- `S.PEND[g] <- 0`. -/
def clearPending (g : Group) (s : State) : State := { s with pend := setPending s.pend g false }

/-- Entering an edge handler: enabled when PEND[g] = 1, it saves nothing, clears the flag and runs the
body to its end in the same step (60_exceptions.md R266, R268, R269). There is no return operation
(R270). Not enabled, there is no step (00_scope.md R23; log 3). -/
def runEdgeHandler (g : Group) (body : State → State) (s : State) :
    Host.Outcome State Fault Refusal :=
  if pending s.pend g then .next (body (clearPending g s))
  else .fault (.stepNotEnabled (.edgeGroup g))

/-! ## The sample pipeline -/

/-- `ActPulse(d)` (42_output.md R204). -/
def actPulse (us : Nat) (s : State) : State := timerArm us (setOut 1#1 s)

/-- `OutputAction(m)`, run once per accepted sample (42_output.md R200 to R204). A code that is no
OutputMode, which no reachable state holds, has no action (log 15). -/
def outputAction (code : Byte) (s : State) : State :=
  match outputMode? s.params code with
  | some .notUsed => s
  | some .toggle => setOut (s.out ^^^ 1#1) s
  | some .mirrorInput0 => setOut (mirrorBit s.raw) s
  | some (.pulse w) => actPulse (pulseUs s.params w) s
  | none => s

/-- `NotifyIfEnabled(snap)`, to the address of INPUTS_STATE (42_output.md R220). -/
def notifyIfEnabled (snap : Half) (s : State) : State :=
  if eventsEnabled s then emitNotify (registerAddr s.params .inputsState) snap s else s

/-- What an accepted sample does: register update, then output action, then notification
(41_capture.md R166). -/
def takeSample (s : State) : State :=
  let snap := mkSnapshot s.params s.raw s.strap
  notifyIfEnabled snap (outputAction s.omode { s with instate := snap })

/-- `AcceptSample(filtered)`: an edge sample whose low N_IN bits equal INPUTS_STATE's is discarded
(41_capture.md R166, R167). -/
def acceptSample (filtered : Bool) (s : State) : State :=
  if filtered ∧ mkSnapshot s.params s.raw s.strap &&& inputMask s.params =
      s.instate &&& inputMask s.params then s else takeSample s

/-! ## Entering an output mode -/

/-- Leaving a pending pulse: disarmed and forced low first (42_output.md R211). -/
def leavePulse (s : State) : State :=
  if timerArmed s.tmr then setOut 0#1 (timerDisarm s) else s

/-- The entry behaviour of a mode (42_output.md R212 to R214). -/
def modeEntry (m : OutputMode) (s : State) : State :=
  match m with
  | .notUsed => s
  | .toggle => s
  | .mirrorInput0 => setOut (mirrorBit s.raw) s
  | .pulse _ => setOut 0#1 (timerDisarm s)

/-- `EnterOutputMode(m)` (42_output.md R210). -/
def enterOutputMode (code : Byte) (m : OutputMode) (s : State) : State :=
  modeEntry m { leavePulse s with omode := code }

/-! ## Choosing the next step -/

/-- The next chosen step and the state without it (00_scope.md R4; log 1). -/
def takeInput (s : State) : Option (PortInput × State) :=
  match s.inputs with
  | [] => none
  | f :: rest => some (f, { s with inputs := rest })

/-- An input placed to be the very next step. A handler step is one an agent can choose only while its
source is pending (00_scope.md R23), so its source is made pending too (log 2). -/
def placeInput (f : PortInput) (s : State) : State :=
  let t := { s with inputs := f :: s.inputs }
  match decode s.params f with
  | .ok .edgeG0 => { t with pend := setPending t.pend .g0 true }
  | .ok .edgeG1 => { t with pend := setPending t.pend .g1 true }
  | .ok .edgeG2 => { t with pend := setPending t.pend .g2 true }
  | .ok .pulseFire => if timerArmed t.tmr then t else timerArm (pulseUs t.params .us250) t
  | _ => t

end Sys2Proof.Machine
end

