-- ==== Sys2Proof/Machine/Capture.lean ====
section
/-! DEFINITION. The input sampler and capture scheduler: PINS, the three edge handlers, BASE_TICK and
SECOND_TICK (41_capture.md). -/

namespace Sys2Proof.Machine

/-- PINS: an armed edge sets its group's flag, and the levels become the pin word's. It samples nothing
(R164). -/
def execPins (pv : Lines) (s : State) : Host.Outcome State Fault Refusal :=
  .next { s with
    pend := pendingOf fun g => pending s.pend g || groupEdge s.params s.arm s.raw (pvRaw s.params pv) g
    raw := pvRaw s.params pv
    strap := pvStrap s.params pv }

/-- The body of the EdgeInput0 handler, with the raw-polarity gates of Rise and Fall (R168). -/
def edgeG0Body (s : State) : State :=
  match captureMode? s.params s.catchCode with
  | some .onAnyChange => acceptSample true s
  | some .riseOnInput0 => if s.raw.getLsbD 0 then acceptSample true s else s
  | some .fallOnInput0 => if s.raw.getLsbD 0 then s else acceptSample true s
  | some .disabled => s
  | some .poll100Hz => s
  | some .poll250Hz => s
  | some .poll500Hz => s
  | some .poll1000Hz => s
  | some .poll2000Hz => s
  | none => s

/-- The body of the handlers of lines 1..5 and 6..8: they sample under OnAnyChange only (R169, R170). -/
def edgeOtherBody (s : State) : State :=
  if captureMode? s.params s.catchCode = some .onAnyChange then acceptSample true s else s

/-- EDGE_G0 (R168). -/
def execEdgeG0 (s : State) : Host.Outcome State Fault Refusal :=
  runEdgeHandler .g0 edgeG0Body s

/-- EDGE_G1 (R169). -/
def execEdgeG1 (s : State) : Host.Outcome State Fault Refusal :=
  runEdgeHandler .g1 edgeOtherBody s

/-- EDGE_G2 (R170). -/
def execEdgeG2 (s : State) : Host.Outcome State Fault Refusal :=
  runEdgeHandler .g2 edgeOtherBody s

/-- Whether a base tick samples: a poll mode whose divisor divides the count before the increment
(R171). -/
def tickSamples (s : State) : Bool :=
  match (captureMode? s.params s.catchCode).bind (pollDivisor s.params) with
  | some d => s.phase % d == 0
  | none => false

/-- BASE_TICK: an unfiltered sample if the cadence asks for one, then the counter, in every mode (R171). -/
def execBaseTick (s : State) : Host.Outcome State Fault Refusal :=
  let t := if tickSamples s then acceptSample false s else s
  .next { t with phase := nextPhase t.params t.phase }

/-- SECOND_TICK (R172). -/
def execSecondTick (s : State) : Host.Outcome State Fault Refusal :=
  .next { s with phase := 0 }

end Sys2Proof.Machine
end

