-- ==== Sys2Proof/Machine/Control.lean ====
section
/-! DEFINITION. Reinit, safe state and power loss (43_control.md). -/

namespace Sys2Proof.Machine

/-- What REINIT does to the state before it answers (R240). INSTATE, PEND, RAW and STRAP keep their values:
"all nine lines Both; no PEND cleared". -/
def reinitState (s : State) : State :=
  let c := captureCode s.params .onAnyChange
  { applyArming c { setOut 0#1 (timerDisarm s) with catchCode := c } with
    pend := s.pend
    omode := outputCode s.params .toggle
    even := 0x01#8
    phase := 0 }

/-- REINIT: always OK (R240). -/
def execReinit (s : State) : Host.Outcome State Fault Refusal :=
  .next (respond (.ok 0#16) (reinitState s))

/-- FORCE_SAFE: the timer is disarmed and the output forced low; the block keeps running (R241). -/
def execForceSafe (s : State) : Host.Outcome State Fault Refusal :=
  .next (setOut 0#1 (timerDisarm s))

/-- Power loss and return: no state survives, and the state is the power-on state (R242). It is no step
of the block (00_scope.md R3; log 25). -/
def powerCycle (s : State) : State := State.powerOn s.params

end Sys2Proof.Machine
end

