-- ==== Sys2Proof/Machine/Output.lean ====
section
/-! DEFINITION. The pulse-timer fire handler (42_output.md R205). The output actions and the mode entry
behaviours stand in Machine/Ops.lean. -/

namespace Sys2Proof.Machine

/-- PULSE_FIRE, enabled when TMR = Armed(_): the output bit is forced low and the timer disarmed
(R205). Not enabled, there is no step (00_scope.md R23; log 3). -/
def execPulseFire (s : State) : Host.Outcome State Fault Refusal :=
  if timerArmed s.tmr then .next (timerDisarm (setOut 0#1 s))
  else .fault (.stepNotEnabled .pulseTimer)

end Sys2Proof.Machine
end

