-- ==== Sys2Proof/Machine/RegisterBank.lean ====
section
/-! DEFINITION. The register bank: the read and write handlers of the nine registers, the generic
dispatch over them, and the meaning of every READ, every WRITE and the reserved commands
(40_register_bank.md). -/

namespace Sys2Proof.Machine

/-! ## Read handlers: they always succeed and give RDATA -/

/-- All 16 bits of INSTATE, one atomic value (R123). -/
def readInputsState (s : State) : Half := s.instate

/-- The authoritative bit, zero-extended (R125). -/
def readOutputs (s : State) : Half := rdataOfByte (s.out.zeroExtend 8)

/-- The CaptureMode code (R127). -/
def readInputCatchMode (s : State) : Half := rdataOfByte s.catchCode

/-- The OutputMode code (R129). -/
def readOutputMode (s : State) : Half := rdataOfByte s.omode

/-- The constant a reserved register reads as (R131 to R134; 92_eei_decisions.md D11). -/
def readReserved (_ : State) : Half := rdataOfByte 0x00#8

/-- EVEN, 0x00 or 0x01 (R139). -/
def readEvntEnable (s : State) : Half := rdataOfByte s.even

/-- The read handler column of the register table (R120). -/
def readHandler : Register → State → Half
  | .inputsState => readInputsState
  | .outputs => readOutputs
  | .inputCatchMode => readInputCatchMode
  | .outputMode => readOutputMode
  | .reserved0 => readReserved
  | .reserved1 => readReserved
  | .reserved2 => readReserved
  | .reserved3 => readReserved
  | .evntEnable => readEvntEnable

/-! ## Write handlers: every check before the first write (60_exceptions.md R262) -/

/-- A write of the read-only INPUTS_STATE fails (R124). -/
def writeInputsState (_ : Half) (_ : State) : Except FailReason State :=
  .error .readOnlyRegisterWrite

/-- `S.OUT <- b[0]`; bits 7:1 are ignored and the timer is not touched (R126). -/
def writeOutputs (b : Byte) (s : State) : Except FailReason State :=
  .ok (setOut (b.extractLsb' 0 1) s)

/-- The code is stored and the lines are re-armed in the same step; a byte that is no CaptureMode code
fails (R128). -/
def writeInputCatchMode (b : Byte) (s : State) : Except FailReason State :=
  match captureMode? s.params b with
  | some _ => .ok (applyArming b { s with catchCode := b })
  | none => .error .invalidEnumValue

/-- The entry behaviour runs on every accepted write; a byte that is no OutputMode code fails (R130). -/
def writeOutputMode (b : Byte) (s : State) : Except FailReason State :=
  match outputMode? s.params b with
  | some m => .ok (enterOutputMode b m s)
  | none => .error .invalidEnumValue

/-- "Reserved registers' write handlers unconditionally fail" (R135 to R138). -/
def writeReserved (_ : Byte) (_ : State) : Except FailReason State :=
  .error .reservedRegisterWrite

/-- `S.EVEN <- b & 0x01` (R140). -/
def writeEvntEnable (b : Byte) (s : State) : Except FailReason State :=
  .ok { s with even := b &&& 0x01#8 }

/-- The write handler column of the register table (R120). Each handler is given element 0 of the
payload, at its register's type (30_encoding.md R98). -/
def writeHandler (r : Register) (bytes : List Byte) : State → Except FailReason State :=
  match r with
  | .inputsState => writeInputsState (elementU16 bytes)
  | .outputs => writeOutputs (elementU8 bytes)
  | .inputCatchMode => writeInputCatchMode (elementU8 bytes)
  | .outputMode => writeOutputMode (elementU8 bytes)
  | .reserved0 => writeReserved (elementU8 bytes)
  | .reserved1 => writeReserved (elementU8 bytes)
  | .reserved2 => writeReserved (elementU8 bytes)
  | .reserved3 => writeReserved (elementU8 bytes)
  | .evntEnable => writeEvntEnable (elementU8 bytes)

/-! ## Dispatch -/

/-- READ of a register: the type check, then the read handler (R121). -/
def readRegister (r : Register) (typ : Byte) (s : State) : State :=
  if typ = elementTag s.params r then respond (.ok (readHandler r s)) s
  else failCommand .typeMismatch s

/-- WRITE of a register: the type check, the count check, then the write handler, whose result is final
(R122, 60_exceptions.md R264). -/
def writeRegister (r : Register) (typ count : Byte) (wdata : Half) (s : State) : State :=
  if typ = elementTag s.params r then
    if count = elementCount r then
      match writeHandler r (payload wdata) s with
      | .ok t => respond (.ok 0#16) t
      | .error reason => failCommand reason s
    else failCommand .elementCountMismatch s
  else failCommand .typeMismatch s

/-- `DispatchRead(a, t)` (R121, R141). -/
def dispatchRead (addr typ : Byte) (s : State) : State :=
  match registerAt s.params addr with
  | none => failCommand .invalidAddress s
  | some r => readRegister r typ s

/-- `DispatchWrite(a, t, bytes, n)` (R122, R141). -/
def dispatchWrite (addr typ count : Byte) (wdata : Half) (s : State) : State :=
  match registerAt s.params addr with
  | none => failCommand .invalidAddress s
  | some r => writeRegister r typ count wdata s

/-- What a READ of the bank's register at an address would give, `none` outside the window. -/
def bankRead (addr : Byte) (s : State) : Option Half :=
  (registerAt s.params addr).map fun r => readHandler r s

/-! ## The meanings -/

/-- READ_INPUTS_STATE (R123). -/
def execReadInputsState (typ : Byte) (s : State) : Host.Outcome State Fault Refusal :=
  .next (readRegister .inputsState typ s)

/-- WRITE_INPUTS_STATE (R124). -/
def execWriteInputsState (typ count : Byte) (wdata : Half) (s : State) :
    Host.Outcome State Fault Refusal :=
  .next (writeRegister .inputsState typ count wdata s)

/-- READ_OUTPUTS (R125). -/
def execReadOutputs (typ : Byte) (s : State) : Host.Outcome State Fault Refusal :=
  .next (readRegister .outputs typ s)

/-- WRITE_OUTPUTS (R126). -/
def execWriteOutputs (typ count : Byte) (wdata : Half) (s : State) :
    Host.Outcome State Fault Refusal :=
  .next (writeRegister .outputs typ count wdata s)

/-- READ_INPUT_CATCH_MODE (R127). -/
def execReadInputCatchMode (typ : Byte) (s : State) : Host.Outcome State Fault Refusal :=
  .next (readRegister .inputCatchMode typ s)

/-- WRITE_INPUT_CATCH_MODE (R128). -/
def execWriteInputCatchMode (typ count : Byte) (wdata : Half) (s : State) :
    Host.Outcome State Fault Refusal :=
  .next (writeRegister .inputCatchMode typ count wdata s)

/-- READ_OUTPUT_MODE (R129). -/
def execReadOutputMode (typ : Byte) (s : State) : Host.Outcome State Fault Refusal :=
  .next (readRegister .outputMode typ s)

/-- WRITE_OUTPUT_MODE (R130). -/
def execWriteOutputMode (typ count : Byte) (wdata : Half) (s : State) :
    Host.Outcome State Fault Refusal :=
  .next (writeRegister .outputMode typ count wdata s)

/-- READ_RESERVED0 (R131). -/
def execReadReserved0 (typ : Byte) (s : State) : Host.Outcome State Fault Refusal :=
  .next (readRegister .reserved0 typ s)

/-- WRITE_RESERVED0 (R135). -/
def execWriteReserved0 (typ count : Byte) (wdata : Half) (s : State) :
    Host.Outcome State Fault Refusal :=
  .next (writeRegister .reserved0 typ count wdata s)

/-- READ_RESERVED1 (R132). -/
def execReadReserved1 (typ : Byte) (s : State) : Host.Outcome State Fault Refusal :=
  .next (readRegister .reserved1 typ s)

/-- WRITE_RESERVED1 (R136). -/
def execWriteReserved1 (typ count : Byte) (wdata : Half) (s : State) :
    Host.Outcome State Fault Refusal :=
  .next (writeRegister .reserved1 typ count wdata s)

/-- READ_RESERVED2 (R133). -/
def execReadReserved2 (typ : Byte) (s : State) : Host.Outcome State Fault Refusal :=
  .next (readRegister .reserved2 typ s)

/-- WRITE_RESERVED2 (R137). -/
def execWriteReserved2 (typ count : Byte) (wdata : Half) (s : State) :
    Host.Outcome State Fault Refusal :=
  .next (writeRegister .reserved2 typ count wdata s)

/-- READ_RESERVED3 (R134). -/
def execReadReserved3 (typ : Byte) (s : State) : Host.Outcome State Fault Refusal :=
  .next (readRegister .reserved3 typ s)

/-- WRITE_RESERVED3 (R138). -/
def execWriteReserved3 (typ count : Byte) (wdata : Half) (s : State) :
    Host.Outcome State Fault Refusal :=
  .next (writeRegister .reserved3 typ count wdata s)

/-- READ_EVNT_ENABLE (R139). -/
def execReadEvntEnable (typ : Byte) (s : State) : Host.Outcome State Fault Refusal :=
  .next (readRegister .evntEnable typ s)

/-- WRITE_EVNT_ENABLE (R140). -/
def execWriteEvntEnable (typ count : Byte) (wdata : Half) (s : State) :
    Host.Outcome State Fault Refusal :=
  .next (writeRegister .evntEnable typ count wdata s)

/-- READ_OUTSIDE_WINDOW: the generic dispatch, which fails the address check (R141; log 16). -/
def execReadOutsideWindow (addr typ : Byte) (s : State) : Host.Outcome State Fault Refusal :=
  .next (dispatchRead addr typ s)

/-- WRITE_OUTSIDE_WINDOW: the generic dispatch, which fails the address check (R141; log 16). -/
def execWriteOutsideWindow (addr typ count : Byte) (wdata : Half) (s : State) :
    Host.Outcome State Fault Refusal :=
  .next (dispatchWrite addr typ count wdata s)

/-- RESERVED_CMD_0 (R142). -/
def execReservedCmd0 (s : State) : Host.Outcome State Fault Refusal :=
  .next (failCommand .invalidCommand s)

/-- RESERVED_CMD_4_7 (R142). -/
def execReservedCmd4to7 (s : State) : Host.Outcome State Fault Refusal :=
  .next (failCommand .invalidCommand s)

/-- RESERVED_CMD_8_F (R142). -/
def execReservedCmd8toF (s : State) : Host.Outcome State Fault Refusal :=
  .next (failCommand .invalidCommand s)

end Sys2Proof.Machine
end

