-- ==== Sys2Proof/Machine/Dispatch.lean ====
section
/-! DEFINITION. The dispatch: one arm per constructor of Instr, each one call of its meaning. An
underscore stands for a field the rule ignores. -/

namespace Sys2Proof.Machine

def exec (i : Instr) (s : State) : Host.Outcome State Fault Refusal :=
  match i with
  | .readInputsState _ typ _ => Sys2Proof.Machine.execReadInputsState typ s
  | .writeInputsState _ typ count wdata => Sys2Proof.Machine.execWriteInputsState typ count wdata s
  | .readOutputs _ typ _ => Sys2Proof.Machine.execReadOutputs typ s
  | .writeOutputs _ typ count wdata => Sys2Proof.Machine.execWriteOutputs typ count wdata s
  | .readInputCatchMode _ typ _ => Sys2Proof.Machine.execReadInputCatchMode typ s
  | .writeInputCatchMode _ typ count wdata => Sys2Proof.Machine.execWriteInputCatchMode typ count wdata s
  | .readOutputMode _ typ _ => Sys2Proof.Machine.execReadOutputMode typ s
  | .writeOutputMode _ typ count wdata => Sys2Proof.Machine.execWriteOutputMode typ count wdata s
  | .readReserved0 _ typ _ => Sys2Proof.Machine.execReadReserved0 typ s
  | .writeReserved0 _ typ count wdata => Sys2Proof.Machine.execWriteReserved0 typ count wdata s
  | .readReserved1 _ typ _ => Sys2Proof.Machine.execReadReserved1 typ s
  | .writeReserved1 _ typ count wdata => Sys2Proof.Machine.execWriteReserved1 typ count wdata s
  | .readReserved2 _ typ _ => Sys2Proof.Machine.execReadReserved2 typ s
  | .writeReserved2 _ typ count wdata => Sys2Proof.Machine.execWriteReserved2 typ count wdata s
  | .readReserved3 _ typ _ => Sys2Proof.Machine.execReadReserved3 typ s
  | .writeReserved3 _ typ count wdata => Sys2Proof.Machine.execWriteReserved3 typ count wdata s
  | .readEvntEnable _ typ _ => Sys2Proof.Machine.execReadEvntEnable typ s
  | .writeEvntEnable _ typ count wdata => Sys2Proof.Machine.execWriteEvntEnable typ count wdata s
  | .readOutsideWindow _ addr typ _ => Sys2Proof.Machine.execReadOutsideWindow addr typ s
  | .writeOutsideWindow _ addr typ count wdata => Sys2Proof.Machine.execWriteOutsideWindow addr typ count wdata s
  | .reinit _ => Sys2Proof.Machine.execReinit s
  | .reservedCmd0 _ => Sys2Proof.Machine.execReservedCmd0 s
  | .reservedCmd4to7 _ _ => Sys2Proof.Machine.execReservedCmd4to7 s
  | .reservedCmd8toF _ _ => Sys2Proof.Machine.execReservedCmd8toF s
  | .pins pv => Sys2Proof.Machine.execPins pv s
  | .edgeG0 => Sys2Proof.Machine.execEdgeG0 s
  | .edgeG1 => Sys2Proof.Machine.execEdgeG1 s
  | .edgeG2 => Sys2Proof.Machine.execEdgeG2 s
  | .baseTick => Sys2Proof.Machine.execBaseTick s
  | .secondTick => Sys2Proof.Machine.execSecondTick s
  | .pulseFire => Sys2Proof.Machine.execPulseFire s
  | .forceSafe => Sys2Proof.Machine.execForceSafe s

end Sys2Proof.Machine
end

