-- ==== Sys2Proof/Machine/Step.lean ====
section
/-! DEFINITION. One step: the next chosen input is taken, decoded and executed (00_scope.md R3, R4). -/

namespace Sys2Proof.Machine

/-- A step takes the head of `inputs`, decodes it and is `exec` of the instruction on the state without
that input. Nothing else happens around `exec`: there is no program counter (10_state.md R31). -/
def step (s : State) : Host.Outcome State Fault Refusal :=
  match takeInput s with
  | none => .fault .noStepChosen
  | some (f, t) =>
    match decode t.params f with
    | .ok i => exec i t
    | .error .outsidePortFormat => .refused .outsidePortFormat
    | .error .unnamedEventLabel => .refused .unnamedEventLabel

/-- `s` with an opcode-table word placed as the very next step (log 2, log 21). -/
def State.withFetchWord (s : State) (nbits w : Nat) : State :=
  placeInput (tableInput nbits w) s

end Sys2Proof.Machine
end

