-- ==== Sys2Proof/Machine/Pseudo.lean ====
section
/-! DEFINITION. The assembler's lines and pseudo-instructions as builders of instructions
(30_encoding.md R105, R106). They add no meaning: each is a word of the table. -/

namespace Sys2Proof.Machine

/-- `READ <reg>, <type>`, with RSV and COUNT zero (R105). -/
def asmRead (p : Params) (addr typ : Byte) : Instr := decodeRead p 0#4 addr typ 0#8

/-- `WRITE <reg>, <type>, <count>, <data16>`, with RSV zero (R105). -/
def asmWrite (p : Params) (addr typ count : Byte) (data : Half) : Instr :=
  decodeWrite p 0#4 addr typ count data

/-- `REINIT` (R105). -/
def asmReinit : Instr := .reinit 0#28

/-- `PINS raw=…, strap=…` (R105). -/
def asmPins (p : Params) (raw strap : Lines) : Instr := .pins (pinWord p raw strap)

/-- `RD8 reg` (R106). -/
def rd8 (p : Params) (r : Register) : Instr := asmRead p (registerAddr p r) p.typeU8

/-- `RD16 reg` (R106). -/
def rd16 (p : Params) (r : Register) : Instr := asmRead p (registerAddr p r) p.typeU16

/-- `WR8 reg, v` (R106). -/
def wr8 (p : Params) (r : Register) (v : Half) : Instr := asmWrite p (registerAddr p r) p.typeU8 1#8 v

/-- `SETCATCH <CaptureMode>` (R106). -/
def setCatch (p : Params) (m : CaptureMode) : Instr := wr8 p .inputCatchMode (rdataOfByte (captureCode p m))

/-- `SETOMODE <OutputMode>` (R106). -/
def setOmode (p : Params) (m : OutputMode) : Instr := wr8 p .outputMode (rdataOfByte (outputCode p m))

/-- `SETOUT v` (R106). -/
def setOutputs (p : Params) (v : Half) : Instr := wr8 p .outputs v

/-- `EVENTS on` and `EVENTS off` (R106). -/
def setEvents (p : Params) (on : Bool) : Instr := wr8 p .evntEnable (if on then 1#16 else 0#16)

/-- `PIN i, l`: the current levels with input i set to l (R106). -/
def pinTo (i : Nat) (level : Bool) (s : State) : Instr :=
  asmPins s.params (if level then s.raw ||| 1#16 <<< i else s.raw &&& ~~~(1#16 <<< i)) s.strap

/-- `TICKS n` (R106). -/
def ticks (n : Nat) : List Instr := List.replicate n .baseTick

end Sys2Proof.Machine
end

