-- ==== Sys2Proof/Safety.lean ====
section
/-! DEFINITION. What the statements speak of: the kinds of step and their agents, when a step is enabled,
the invariant of the reachable states, a run over chosen instructions, and what of a state is left when
the strap bits are forgotten. -/

namespace Sys2Proof

/-- The kinds of step (00_scope.md R3), a WRITE with its register. -/
inductive StepKind where
  | read | write (r : Register) | outsideWindow | reinit | reservedCommand
  | pins | edge (g : Group) | baseTick | secondTick | pulseFire | forceSafe
  deriving DecidableEq, Repr

/-- The kind of an instruction. -/
def Instr.kind : Instr → StepKind
  | .readInputsState .. => .read
  | .writeInputsState .. => .write .inputsState
  | .readOutputs .. => .read
  | .writeOutputs .. => .write .outputs
  | .readInputCatchMode .. => .read
  | .writeInputCatchMode .. => .write .inputCatchMode
  | .readOutputMode .. => .read
  | .writeOutputMode .. => .write .outputMode
  | .readReserved0 .. => .read
  | .writeReserved0 .. => .write .reserved0
  | .readReserved1 .. => .read
  | .writeReserved1 .. => .write .reserved1
  | .readReserved2 .. => .read
  | .writeReserved2 .. => .write .reserved2
  | .readReserved3 .. => .read
  | .writeReserved3 .. => .write .reserved3
  | .readEvntEnable .. => .read
  | .writeEvntEnable .. => .write .evntEnable
  | .readOutsideWindow .. => .outsideWindow
  | .writeOutsideWindow .. => .outsideWindow
  | .reinit _ => .reinit
  | .reservedCmd0 _ => .reservedCommand
  | .reservedCmd4to7 _ _ => .reservedCommand
  | .reservedCmd8toF _ _ => .reservedCommand
  | .pins _ => .pins
  | .edgeG0 => .edge .g0
  | .edgeG1 => .edge .g1
  | .edgeG2 => .edge .g2
  | .baseTick => .baseTick
  | .secondTick => .secondTick
  | .pulseFire => .pulseFire
  | .forceSafe => .forceSafe

/-- The handler step of an interrupt group (00_scope.md R26). -/
def edgeInstr : Group → Instr
  | .g0 => .edgeG0
  | .g1 => .edgeG1
  | .g2 => .edgeG2

/-- Whether a kind of step is a host command (00_scope.md R4). -/
def StepKind.isHost : StepKind → Bool
  | .read => true
  | .write _ => true
  | .outsideWindow => true
  | .reinit => true
  | .reservedCommand => true
  | .pins => false
  | .edge _ => false
  | .baseTick => false
  | .secondTick => false
  | .pulseFire => false
  | .forceSafe => false

/-- Whether a kind of step is one that may sample: an edge handler or a base tick. -/
def StepKind.maySample : StepKind → Bool
  | .edge _ => true
  | .baseTick => true
  | .read => false
  | .write _ => false
  | .outsideWindow => false
  | .reinit => false
  | .reservedCommand => false
  | .pins => false
  | .secondTick => false
  | .pulseFire => false
  | .forceSafe => false

namespace Machine

/-- The handler source of a kind of step, `none` for a step that is always enabled
(70_reset_and_hazards.md R291). -/
def handlerSource? : StepKind → Option HandlerSource
  | .edge g => some (.edgeGroup g)
  | .pulseFire => some .pulseTimer
  | .read => none
  | .write _ => none
  | .outsideWindow => none
  | .reinit => none
  | .reservedCommand => none
  | .pins => none
  | .baseTick => none
  | .secondTick => none
  | .forceSafe => none

/-- Whether a handler source is pending: PEND[g] = 1, or TMR = Armed(_) (60_exceptions.md R266). -/
def sourcePending (s : State) : HandlerSource → Bool
  | .edgeGroup g => pending s.pend g
  | .pulseTimer => timerArmed s.tmr

/-- What every reachable state satisfies (10_state.md R34 to R36, R42 to R46). -/
structure State.Inv (s : State) : Prop where
  /-- CATCH holds a legal code (R34). -/
  catchLegal : ∃ m, s.catchCode = captureCode s.params m
  /-- OMODE holds a legal code (R35). -/
  omodeLegal : ∃ m, s.omode = outputCode s.params m
  /-- EVEN is 0x00 or 0x01 (R36). -/
  evenLegal : s.even = 0x00#8 ∨ s.even = 0x01#8
  /-- ARM is the arming of the code CATCH holds (R42). -/
  armOfCatch : s.arm = armCfg s.params s.catchCode
  /-- A pending flag belongs to a group with an armed line (R43). -/
  pendArmed : ∀ g, pending s.pend g = true → groupArmed s.params s.arm g = true
  /-- PHASE is a number of PHASE_W bits (R44). -/
  phaseFits : s.phase < 2 ^ s.params.phaseW
  /-- RAW has no bit but those of the input lines (R41). -/
  rawFits : s.raw.toNat < 2 ^ s.params.nIn
  /-- STRAP has no bit but those of the strap lines (R41). -/
  strapFits : s.strap.toNat < 2 ^ s.params.nStrap
  /-- An armed timer counts the duration of the pulse mode OMODE holds (R45, R46). -/
  timerOfPulse : ∀ us, s.tmr = .armed us →
    ∃ w, s.omode = outputCode s.params (.pulse w) ∧ us = pulseUs s.params w

/-- `exec` along a list of instructions, stopping at the first stop. -/
def runInstrs : List Instr → State → Host.Outcome State Fault Refusal
  | [], s => .next s
  | i :: rest, s =>
    match exec i s with
    | .next t => runInstrs rest t
    | .fault r => .fault r
    | .refused r => .refused r

/-- What the host may have received of the notifications emitted: any subsequence of them, in order. None
is resent (42_output.md R221; 93_implementation_defined.md U5; log 22). -/
def mayReceive (got : List Notification) (s : State) : Prop := got.Sublist s.notifications

/-- A response of which the bits of the inputs remain: the mask 0x1FF by default (10_state.md R39). -/
def forgetInResponse (p : Params) : Response → Response
  | .ok data => .ok (data &&& inputMask p)
  | .fail reason => .fail reason

/-- A state with the strap lines and every bit of a snapshot above the inputs, sent or held, forgotten: bits
15:9 by default. -/
def forgetStraps (s : State) : State :=
  { s with
    strap := 0#16
    instate := s.instate &&& inputMask s.params
    notifications := s.notifications.map fun n => { n with value := n.value &&& inputMask s.params }
    responses := s.responses.map (forgetInResponse s.params) }

end Machine

end Sys2Proof
end

