-- ==== Sys2Proof/Certificates/Slice0/Obligations.lean ====
section
/-! DEFINITION. The statements for the provers. `Sys2Proof.Spec` holds the rules' own tables, written
from the spec's numbers and not from the model's operations, for the statements to speak of. -/

namespace Sys2Proof.Spec

open Sys2Proof.Machine

/-- A command word of its five fields, CMD first (30_encoding.md R91). -/
def wordOf (c rsv : BitVec 4) (a t n : Byte) : CommandWord := c ++ rsv ++ a ++ t ++ n

/-- The window: nine registers from BASE_ADDR (20_memory.md R71). -/
def inWindow (p : Params) (a : Byte) : Prop := p.base.val ≤ a.toNat ∧ a.toNat ≤ p.base.val + 8

/-- An address is that of row `i` of the register table: BASE_ADDR + REG_OFFSET (10_state.md R32). -/
abbrev AtRow (p : Params) (a : Byte) (i : Fin 9) : Prop := a.toNat = p.base.val + (p.offsets[i]).val

/-- The address of INPUTS_STATE, row 0 (30_encoding.md R95). -/
def inputsStateAddr (p : Params) : Byte := BitVec.ofNat 8 (p.base.val + (p.offsets[0]).val)

/-- The tag column of the register table, by address (40_register_bank.md R120). -/
def tagAt (p : Params) (a : Byte) : Byte := if AtRow p a 0 then p.typeU16 else p.typeU8

/-- What each register of the window reads as, by address (R123, R125, R127, R129, R131 to R134, R139). -/
def valueAt (a : Byte) (s : State) : Half :=
  if AtRow s.params a 0 then s.instate
  else if AtRow s.params a 1 then s.out.zeroExtend 16
  else if AtRow s.params a 2 then s.catchCode.zeroExtend 16
  else if AtRow s.params a 3 then s.omode.zeroExtend 16
  else if AtRow s.params a 8 then s.even.zeroExtend 16
  else 0x0000#16

/-- A state with one more answer on the command port and nothing else changed. -/
def answered (r : Response) (s : State) : State := { s with responses := s.responses ++ [r] }

/-- A byte is one of CATCH_CODE (30_encoding.md R96). -/
def legalCapture (p : Params) (c : Byte) : Prop := c ∈ p.catchCodes.toList

/-- A byte is one of OMODE_CODE (30_encoding.md R97). -/
def legalOutput (p : Params) (c : Byte) : Prop := c ∈ p.omodeCodes.toList

/-- `armCfg(c)`, line by line, the codes in the order of R96 (41_capture.md R162): nine lines by default, and
the model's choice with another N_IN (log 9). -/
def arming (p : Params) (c : Byte) : List EdgeArm :=
  (List.range p.nIn).map fun i =>
    if c = p.catchCodes[1] then .both
    else if i = 0 ∧ c = p.catchCodes[2] then .rise
    else if i = 0 ∧ c = p.catchCodes[3] then .fall
    else .off

/-- DIV of a poll code, 0 for the other codes (00_scope.md R15, 41_capture.md R162). -/
def divOf (p : Params) (c : Byte) : Nat :=
  if c = p.catchCodes[4] then p.divisors[0] else if c = p.catchCodes[5] then p.divisors[1]
  else if c = p.catchCodes[6] then p.divisors[2] else if c = p.catchCodes[7] then p.divisors[3]
  else if c = p.catchCodes[8] then p.divisors[4] else 0

/-- A byte is one of the five pulse codes (30_encoding.md R97). -/
abbrev IsPulseCode (p : Params) (c : Byte) : Prop :=
  c = p.omodeCodes[3] ∨ c = p.omodeCodes[4] ∨ c = p.omodeCodes[5] ∨ c = p.omodeCodes[6] ∨
    c = p.omodeCodes[7]

/-- The interrupt group of a line (41_capture.md R164; lines above 8, which only other parameters have, are the
model's choice, log 9). -/
def groupOf (i : Nat) : Group := if i = 0 then .g0 else if 1 ≤ i ∧ i ≤ 5 then .g1 else .g2

/-- `edgeMatch` (41_capture.md R165). -/
def matches? (arm : EdgeArm) (old new : Bool) : Prop :=
  (arm = .both ∧ old ≠ new) ∨ (arm = .rise ∧ old = false ∧ new = true) ∨
  (arm = .fall ∧ old = true ∧ new = false)

/-- The gate of EDGE_G0 (41_capture.md R168). -/
def gateOpen (s : State) : Bool :=
  s.catchCode = s.params.catchCodes[1] || (s.catchCode = s.params.catchCodes[2] && s.raw.getLsbD 0) ||
  (s.catchCode = s.params.catchCodes[3] && !s.raw.getLsbD 0)

/-- The word with bits N_IN-1:0 set: 0x1FF by default (10_state.md R39), and the model's choice
with another N_IN (log 9). -/
def inputBits (p : Params) : Half := BitVec.ofNat 16 (2 ^ p.nIn - 1)

/-- The new snapshot's low N_IN bits equal INPUTS_STATE's (41_capture.md R166, R167). -/
abbrev SameInputs (s : State) : Prop :=
  mkSnapshot s.params s.raw s.strap &&& inputBits s.params = s.instate &&& inputBits s.params

/-- OUT after an accepted sample, by output mode code (42_output.md R201 to R204). -/
def outAfterSample (s : State) : BitVec 1 :=
  let code := s.params.omodeCodes
  if s.omode = code[1] then s.out ^^^ 1#1
  else if s.omode = code[2] then BitVec.ofBool (!s.raw.getLsbD 0)
  else if IsPulseCode s.params s.omode then 1#1
  else s.out

/-- TMR after an accepted sample, by output mode code (42_output.md R204, 00_scope.md R16). -/
def tmrAfterSample (s : State) : Timer :=
  let code := s.params.omodeCodes
  let us := s.params.pulseWidths
  if s.omode = code[3] then .armed us[0] else if s.omode = code[4] then .armed us[1]
  else if s.omode = code[5] then .armed us[2] else if s.omode = code[6] then .armed us[3]
  else if s.omode = code[7] then .armed us[4] else s.tmr

/-- The notification output after an accepted sample (42_output.md R220). -/
def notesAfterSample (s : State) : List Notification :=
  if s.even.getLsbD 0 then
    s.notifications ++ [⟨inputsStateAddr s.params, mkSnapshot s.params s.raw s.strap⟩]
  else s.notifications

/-- The state after an accepted sample: INSTATE, then the output action, then the notification, and
nothing else (41_capture.md R166). -/
def sampled (s : State) : State :=
  { s with
    instate := mkSnapshot s.params s.raw s.strap
    out := outAfterSample s
    tmr := tmrAfterSample s
    notifications := notesAfterSample s }

/-- A base tick of this state samples (41_capture.md R171). -/
abbrev TickDue (s : State) : Prop :=
  divOf s.params s.catchCode ≠ 0 ∧ s.phase % divOf s.params s.catchCode = 0

end Sys2Proof.Spec

open Sys2Proof Sys2Proof.Machine Sys2Proof.Spec

/-! ## Encoding -/

/-- Sanity: words written out from the table's rows decode to the instructions they stand for. -/
def Obligations.TableWordsDecodeToTheirRows : Prop :=
  decodeTableWord 32 0x10200200 = some (.readInputsState 0#4 0x02#8 0#8) ∧
  decodeTableWord 48 0x000520230101 = some (.writeOutputMode 0#4 1#8 1#8 0x0005#16) ∧
  decodeTableWord 32 0x1A280137 = some (.readEvntEnable 0xA#4 0x01#8 0x37#8) ∧
  decodeTableWord 32 0x101F0100 = some (.readOutsideWindow 0#4 0x1F#8 0x01#8 0#8) ∧
  decodeTableWord 32 0x3F123456 = some (.reinit 0xF123456#28) ∧
  decodeTableWord 32 0xF0210101 = some (.reservedCmd8toF 7#3 0x0210101#28) ∧
  decodeTableWord 16 0x0FE1 = some (.pins 0x0FE#16) ∧
  decodeTableWord 8 0x07 = some .pulseFire

/-- Decoding an encoded well-formed instruction gives it back, with every operand at every value and the
parameters at every value. The width of a pin word with other numbers of lines is the model's choice (log 9). -/
def Obligations.DecodeUndoesEncode : Prop :=
  ∀ (p : Params) (i : Instr), i.WellFormed p → decode p (encode p i) = .ok i

/-- Decoding drops no bit of a command word: encoding the result rebuilds the word, and the data word of
a WRITE. The data word of another command is not taken (30_encoding.md R91; log 17). -/
def Obligations.EncodeRebuildsTheCommandWord : Prop :=
  ∀ (p : Params) (h : CommandWord) (w : Half), ∃ w' : Nat,
    encode p (decodeCommand p h w) = .command h.toNat w' ∧
    (h.extractLsb' 28 4 = 2#4 → w' = w.toNat) ∧ (h.extractLsb' 28 4 ≠ 2#4 → w' = 0)

/-- 30_encoding.md R102: a command word is decoded by CMD alone, ADDR selects the register rule, and the
decoder is total. -/
def Obligations.CommandWordsDecodeByCmdAlone : Prop :=
  (∀ (p : Params) (h : CommandWord) (w : Half), ∃ i : Instr,
    decode p (.command h.toNat w.toNat) = .ok i ∧ i.WellFormed p ∧ i = decodeCommand p h w) ∧
  ∀ (p : Params) (c rsv : BitVec 4) (a t n : Byte) (w : Half),
    let k := (decodeCommand p (wordOf c rsv a t n) w).kind
    (c = 1#4 → inWindow p a → k = .read) ∧
    (c = 2#4 → inWindow p a → ∃ r, a.toNat = p.base.val + (registerOffset p r).val ∧ k = .write r) ∧
    (c = 1#4 ∨ c = 2#4 → ¬ inWindow p a → k = .outsideWindow) ∧
    (c = 3#4 → k = .reinit) ∧
    (c = 0#4 ∨ 4 ≤ c.toNat → k = .reservedCommand)

/-- 30_encoding.md R100 and R101: each label names its step, PINS carries its pin word, and the other
labels name no step. That a pin word with another N_IN or N_STRAP has N_IN + N_STRAP bits is the model's choice
(log 9), and that a label other than PINS decodes alike whatever PV is is inferred from R101 (log 17). -/
def Obligations.EventLabelsNameTheirSteps : Prop :=
  ∀ (p : Params) (ev pv : Nat), ev < 16 → pv < 2 ^ (p.nIn + p.nStrap) →
    decode p (.event ev pv) =
      if ev = 1 then .ok (.pins (BitVec.ofNat 16 pv))
      else if ev = 2 then .ok .edgeG0 else if ev = 3 then .ok .edgeG1
      else if ev = 4 then .ok .edgeG2 else if ev = 5 then .ok .baseTick
      else if ev = 6 then .ok .secondTick else if ev = 7 then .ok .pulseFire
      else if ev = 8 then .ok .forceSafe else .error .unnamedEventLabel

/-- 20_memory.md R73: byte 0 of a 16-bit element is bits 7:0 and byte 1 is bits 15:8, on the read data
and on the write payload. Element 0 of the payload is its byte 0 at type u8, and byte 1 over byte 0, the
whole of WDATA, at type u16 (30_encoding.md R98). -/
def Obligations.PortBytesAreLittleEndian : Prop :=
  ∀ v : Half, (portBytes v).map BitVec.toNat = [v.toNat % 256, v.toNat / 256] ∧
    payload v = portBytes v ∧ (elementU8 (payload v)).toNat = v.toNat % 256 ∧
    elementU16 (payload v) = v ∧ ∀ b0 b1 : Byte, elementU16 [b0, b1] = b1 ++ b0

/-! ## The step -/

/-- The model's own way to choose the next step (log 1): when the next chosen input decodes to an
instruction, `step` is `exec` of it on the state without that input, and nothing else. -/
def Obligations.StepRunsTheDecodedInstruction : Prop :=
  ∀ (s : State) (f : PortInput) (rest : List PortInput) (i : Instr),
    s.inputs = f :: rest → decode s.params f = .ok i → step s = exec i { s with inputs := rest }

/-- The model's own stops (log 2, log 18) and R100's unnamed labels: with nothing chosen there is no
step, and an input that is no word of its port, or a label that names no step, is refused by name. The width
of a pin word with other numbers of lines is the model's choice (log 9). -/
def Obligations.UnreadableInputsStopByName : Prop :=
  ∀ (s : State) (rest : List PortInput),
    (s.inputs = [] → step s = .fault .noStepChosen) ∧
    (∀ hcw wdata : Nat, s.inputs = .command hcw wdata :: rest → 2 ^ 32 ≤ hcw ∨ 2 ^ 16 ≤ wdata →
      step s = .refused .outsidePortFormat) ∧
    (∀ ev pv : Nat, s.inputs = .event ev pv :: rest →
      2 ^ 4 ≤ ev ∨ 2 ^ (s.params.nIn + s.params.nStrap) ≤ pv →
      step s = .refused .outsidePortFormat) ∧
    (∀ ev pv : Nat, s.inputs = .event ev pv :: rest → pv < 2 ^ (s.params.nIn + s.params.nStrap) →
      ev = 0 ∨ (9 ≤ ev ∧ ev < 16) →
      step s = .refused .unnamedEventLabel)

/-- The model's own loader (log 2): a table word that decodes and is placed runs as the very next step
and answers a next state, whatever the state. With the default parameters it decodes as the table says. -/
def Obligations.PlacedTableWordRunsNext : Prop :=
  ∀ (s : State) (nbits w : Nat) (i : Instr),
    decode s.params (tableInput nbits w) = .ok i ∨
      (s.params = defaultParams ∧ decodeTableWord nbits w = some i) →
    ∃ u t : State, step (s.withFetchWord nbits w) = exec i u ∧ exec i u = .next t ∧
      u.inputs = s.inputs ∧ u.instate = s.instate ∧ u.out = s.out ∧ u.catchCode = s.catchCode

/-- After 00_scope.md R23: a handler step whose source is not pending cannot be taken, and every other step,
the host commands among them, can be taken in every state. The named fault is the model's form of a step
that cannot be taken (log 3). -/
def Obligations.StepTakenExactlyWhenEnabled : Prop :=
  ∀ (i : Instr) (s : State), match handlerSource? i.kind with
    | none => ∃ t, exec i s = .next t
    | some src => if sourcePending s src then ∃ t, exec i s = .next t
        else exec i s = .fault (.stepNotEnabled src)

/-! ## Reset and the invariant -/

/-- 70_reset_and_hazards.md R290: the power-on values, with every parameter at every value; INSTATE is the
open INSTATE_INIT, and ARM is Both on all N_IN lines. `State.reset` has the defaults of 00_scope.md section 4.
That ARM has N_IN entries with another N_IN is the model's choice (log 9). -/
def Obligations.ResetLeavesThePowerOnValues : Prop :=
  (∀ p : Params, let s := State.powerOn p
    s.params = p ∧ s.out = 0#1 ∧ s.catchCode = p.catchCodes[1] ∧ s.omode = p.omodeCodes[1] ∧
    s.even = 0x01#8 ∧ s.instate = Config.instateInit ∧ s.arm = List.replicate p.nIn .both ∧
    (∀ g, pending s.pend g = false) ∧ s.phase = 0 ∧ s.tmr = .idle ∧ s.notifications = []) ∧
  State.reset = State.powerOn defaultParams ∧ State.reset.catchCode = 1#8 ∧ State.reset.omode = 1#8

/-- The power-on state meets the invariant, with every parameter at every value. The lines with another N_IN or
N_STRAP, and the words RAW and STRAP are held in, are the model's choice (log 9, log 19). -/
def Obligations.ResetMeetsTheInvariant : Prop :=
  State.Inv State.reset ∧ ∀ p : Params, State.Inv (State.powerOn p)

/-- Every step keeps the invariant: legal mode codes, EVEN 0 or 1, ARM the arming of CATCH, pending flags
only on armed groups, PHASE a number of PHASE_W bits, RAW and STRAP with no bit but those of their lines,
and an armed timer only in the pulse mode whose duration it counts. The lines with another N_IN or N_STRAP, and
the words RAW and STRAP are held in, are the model's choice (log 9, log 19). -/
def Obligations.StepKeepsTheInvariant : Prop :=
  ∀ s t : State, State.Inv s → step s = .next t → State.Inv t

/-- REINIT differs from power-on only in what it leaves: INSTATE, PEND, RAW and STRAP, and the ports. The
arming of other numbers of lines than nine is the model's choice (log 9). -/
def Obligations.ReinitIsPowerOnButForWhatItLeaves : Prop :=
  ∀ (x : BitVec 28) (s : State), exec (.reinit x) s = .next { State.powerOn s.params with
    instate := s.instate, pend := s.pend, raw := s.raw, strap := s.strap, inputs := s.inputs
    notifications := s.notifications, responses := s.responses ++ [.ok 0#16] }

/-! ## READ -/

/-- 40_register_bank.md R123. -/
def Obligations.ReadInputsStateAnswersTheSnapshot : Prop :=
  ∀ (rsv : BitVec 4) (typ count : Byte) (s : State),
    (typ = s.params.typeU16 → exec (.readInputsState rsv typ count) s =
      .next (answered (.ok s.instate) s)) ∧
    (typ ≠ s.params.typeU16 → exec (.readInputsState rsv typ count) s =
      .next (answered (.fail .typeMismatch) s))

/-- 40_register_bank.md R125. -/
def Obligations.ReadOutputsAnswersTheOutputBit : Prop :=
  ∀ (rsv : BitVec 4) (typ count : Byte) (s : State),
    (typ = s.params.typeU8 → exec (.readOutputs rsv typ count) s =
      .next (answered (.ok (s.out.zeroExtend 16)) s)) ∧
    (typ ≠ s.params.typeU8 → exec (.readOutputs rsv typ count) s =
      .next (answered (.fail .typeMismatch) s))

/-- 40_register_bank.md R127; the code is legal in every state that meets the invariant (R34), and so at
most 8 with the default codes. -/
def Obligations.ReadInputCatchModeAnswersTheCode : Prop :=
  ∀ (rsv : BitVec 4) (typ count : Byte) (s : State),
    (typ = s.params.typeU8 → exec (.readInputCatchMode rsv typ count) s =
      .next (answered (.ok (s.catchCode.zeroExtend 16)) s)) ∧
    (typ ≠ s.params.typeU8 → exec (.readInputCatchMode rsv typ count) s =
      .next (answered (.fail .typeMismatch) s)) ∧
    (State.Inv s → legalCapture s.params s.catchCode) ∧
    (State.Inv s → s.params = defaultParams → (s.catchCode.zeroExtend 16 : Half).toNat ≤ 8)

/-- 40_register_bank.md R129; the code is legal in every state that meets the invariant (R35), and so at
most 7 with the default codes. -/
def Obligations.ReadOutputModeAnswersTheCode : Prop :=
  ∀ (rsv : BitVec 4) (typ count : Byte) (s : State),
    (typ = s.params.typeU8 → exec (.readOutputMode rsv typ count) s =
      .next (answered (.ok (s.omode.zeroExtend 16)) s)) ∧
    (typ ≠ s.params.typeU8 → exec (.readOutputMode rsv typ count) s =
      .next (answered (.fail .typeMismatch) s)) ∧
    (State.Inv s → legalOutput s.params s.omode) ∧
    (State.Inv s → s.params = defaultParams → (s.omode.zeroExtend 16 : Half).toNat ≤ 7)

/-- 40_register_bank.md R131 to R134: a reserved register reads as the constant 0x00. -/
def Obligations.ReadReservedAnswersZero : Prop :=
  ∀ (rsv : BitVec 4) (typ count : Byte) (s : State), ∀ i ∈
    [Instr.readReserved0 rsv typ count, .readReserved1 rsv typ count, .readReserved2 rsv typ count,
      .readReserved3 rsv typ count],
    (typ = s.params.typeU8 → exec i s = .next (answered (.ok 0x0000#16) s)) ∧
    (typ ≠ s.params.typeU8 → exec i s = .next (answered (.fail .typeMismatch) s))

/-- 40_register_bank.md R139. -/
def Obligations.ReadEvntEnableAnswersTheMask : Prop :=
  ∀ (rsv : BitVec 4) (typ count : Byte) (s : State),
    (typ = s.params.typeU8 → exec (.readEvntEnable rsv typ count) s =
      .next (answered (.ok (s.even.zeroExtend 16)) s)) ∧
    (typ ≠ s.params.typeU8 → exec (.readEvntEnable rsv typ count) s =
      .next (answered (.fail .typeMismatch) s))

/-- 40_register_bank.md R121, over the command words: a READ checks the address, then the type, then
answers the register's value, and changes nothing else. -/
def Obligations.ReadWordsDispatchByTheTable : Prop :=
  ∀ (rsv : BitVec 4) (a t n : Byte) (w : Half) (s : State),
    let i := decodeCommand s.params (wordOf 1#4 rsv a t n) w
    (¬ inWindow s.params a → exec i s = .next (answered (.fail .invalidAddress) s)) ∧
    (inWindow s.params a → t ≠ tagAt s.params a → exec i s = .next (answered (.fail .typeMismatch) s)) ∧
    (inWindow s.params a → t = tagAt s.params a → exec i s = .next (answered (.ok (valueAt a s)) s))

/-! ## WRITE -/

/-- 60_exceptions.md R264 and 40_register_bank.md R122, over the command words: the reason recorded is the
first in the order InvalidCommand, InvalidAddress, TypeMismatch, ElementCountMismatch, handler reason. -/
def Obligations.FailureReasonIsTheFirstInOrder : Prop :=
  ∀ (c rsv : BitVec 4) (a t n : Byte) (w : Half) (s : State),
    let i := decodeCommand s.params (wordOf c rsv a t n) w
    let b : Byte := w.extractLsb' 0 8
    (c = 0#4 ∨ 4 ≤ c.toNat → exec i s = .next (answered (.fail .invalidCommand) s)) ∧
    (c = 1#4 ∨ c = 2#4 → ¬ inWindow s.params a →
      exec i s = .next (answered (.fail .invalidAddress) s)) ∧
    (c = 1#4 ∨ c = 2#4 → inWindow s.params a → t ≠ tagAt s.params a →
      exec i s = .next (answered (.fail .typeMismatch) s)) ∧
    (c = 2#4 → inWindow s.params a → t = tagAt s.params a → n ≠ 1#8 →
      exec i s = .next (answered (.fail .elementCountMismatch) s)) ∧
    (c = 2#4 → t = tagAt s.params a → n = 1#8 →
      (AtRow s.params a 0 → exec i s = .next (answered (.fail .readOnlyRegisterWrite) s)) ∧
      ((AtRow s.params a 2 ∧ ¬ legalCapture s.params b) ∨ (AtRow s.params a 3 ∧ ¬ legalOutput s.params b) →
        exec i s = .next (answered (.fail .invalidEnumValue) s)) ∧
      (AtRow s.params a 4 ∨ AtRow s.params a 5 ∨ AtRow s.params a 6 ∨ AtRow s.params a 7 →
        exec i s = .next (answered (.fail .reservedRegisterWrite) s)) ∧
      (AtRow s.params a 1 ∨ AtRow s.params a 8 ∨ (AtRow s.params a 2 ∧ legalCapture s.params b) ∨
        (AtRow s.params a 3 ∧ legalOutput s.params b) →
        ∃ u, exec i s = .next u ∧ u.responses = s.responses ++ [.ok 0#16]))

/-- 40_register_bank.md R126: `S.OUT <- b[0]`, whatever the byte; the timer is not touched; a wrong type
or count fails with no change. -/
def Obligations.WriteOutputsStoresBitZero : Prop :=
  ∀ (rsv : BitVec 4) (typ count : Byte) (w : Half) (s : State),
    (typ = s.params.typeU8 → count = 1#8 → exec (.writeOutputs rsv typ count w) s =
      .next (answered (.ok 0#16) { s with out := BitVec.ofBool (w.getLsbD 0) })) ∧
    (typ ≠ s.params.typeU8 → exec (.writeOutputs rsv typ count w) s =
      .next (answered (.fail .typeMismatch) s)) ∧
    (typ = s.params.typeU8 → count ≠ 1#8 → exec (.writeOutputs rsv typ count w) s =
      .next (answered (.fail .elementCountMismatch) s))

/-- 40_register_bank.md R128 with 41_capture.md R162 and R163: a legal code is stored, the N_IN lines take
its arming, and the groups it leaves unarmed lose their flags, in one step; another byte, a wrong type or a wrong
count fails with no change. The arming of N_IN lines other than nine, and that a group without a line is never
armed, are the model's choice (log 9). -/
def Obligations.WriteInputCatchModeRearms : Prop :=
  ∀ (rsv : BitVec 4) (typ count : Byte) (w : Half) (s : State),
    let b : Byte := w.extractLsb' 0 8
    let code := s.params.catchCodes
    (typ = s.params.typeU8 → count = 1#8 → legalCapture s.params b →
      exec (.writeInputCatchMode rsv typ count w) s =
      .next (answered (.ok 0#16) { s with
        catchCode := b, arm := arming s.params b
        pend := { g0 := s.pend.g0 && (b = code[1] || b = code[2] || b = code[3])
                  g1 := s.pend.g1 && b = code[1] && 1 < s.params.nIn
                  g2 := s.pend.g2 && b = code[1] && 6 < s.params.nIn } })) ∧
    (typ = s.params.typeU8 → count = 1#8 → ¬ legalCapture s.params b →
      exec (.writeInputCatchMode rsv typ count w) s =
      .next (answered (.fail .invalidEnumValue) s)) ∧
    (typ ≠ s.params.typeU8 → exec (.writeInputCatchMode rsv typ count w) s =
      .next (answered (.fail .typeMismatch) s)) ∧
    (typ = s.params.typeU8 → count ≠ 1#8 → exec (.writeInputCatchMode rsv typ count w) s =
      .next (answered (.fail .elementCountMismatch) s))

/-- 40_register_bank.md R130 with 42_output.md R210 to R213: on every accepted write the timer ends idle; a
pulse code forces OUT low, MirrorInput0 recomputes it from RAW[0], and NotUsed and Toggle force it low
only if a countdown was pending. Another byte, a wrong type or a wrong count fails with no change. -/
def Obligations.WriteOutputModeRunsTheEntry : Prop :=
  ∀ (rsv : BitVec 4) (typ count : Byte) (w : Half) (s : State),
    let b : Byte := w.extractLsb' 0 8
    (typ = s.params.typeU8 → count = 1#8 → legalOutput s.params b →
      exec (.writeOutputMode rsv typ count w) s =
      .next (answered (.ok 0#16) { s with
        omode := b, tmr := .idle
        out := if IsPulseCode s.params b then 0#1
          else if b = s.params.omodeCodes[2] then BitVec.ofBool (!s.raw.getLsbD 0)
          else if s.tmr = .idle then s.out else 0#1 })) ∧
    (typ = s.params.typeU8 → count = 1#8 → ¬ legalOutput s.params b →
      exec (.writeOutputMode rsv typ count w) s =
      .next (answered (.fail .invalidEnumValue) s)) ∧
    (typ ≠ s.params.typeU8 → exec (.writeOutputMode rsv typ count w) s =
      .next (answered (.fail .typeMismatch) s)) ∧
    (typ = s.params.typeU8 → count ≠ 1#8 → exec (.writeOutputMode rsv typ count w) s =
      .next (answered (.fail .elementCountMismatch) s))

/-- 40_register_bank.md R140: `S.EVEN <- b & 0x01`, whatever the byte, and no notification. -/
def Obligations.WriteEvntEnableKeepsBitZero : Prop :=
  ∀ (rsv : BitVec 4) (typ count : Byte) (w : Half) (s : State),
    (typ = s.params.typeU8 → count = 1#8 → exec (.writeEvntEnable rsv typ count w) s =
      .next (answered (.ok 0#16) { s with even := if w.getLsbD 0 then 0x01#8 else 0x00#8 })) ∧
    (typ ≠ s.params.typeU8 → exec (.writeEvntEnable rsv typ count w) s =
      .next (answered (.fail .typeMismatch) s)) ∧
    (typ = s.params.typeU8 → count ≠ 1#8 → exec (.writeEvntEnable rsv typ count w) s =
      .next (answered (.fail .elementCountMismatch) s))

/-- 40_register_bank.md R124: a WRITE of INPUTS_STATE always fails and changes nothing. -/
def Obligations.WriteInputsStateAlwaysFails : Prop :=
  ∀ (rsv : BitVec 4) (typ count : Byte) (w : Half) (s : State),
    exec (.writeInputsState rsv typ count w) s = .next (answered (.fail
      (if typ ≠ s.params.typeU16 then .typeMismatch else if count ≠ 1#8 then .elementCountMismatch
        else .readOnlyRegisterWrite)) s)

/-- 40_register_bank.md R135 to R138: a WRITE of a reserved register always fails and changes nothing. -/
def Obligations.WriteReservedAlwaysFails : Prop :=
  ∀ (rsv : BitVec 4) (typ count : Byte) (w : Half) (s : State), ∀ i ∈
    [Instr.writeReserved0 rsv typ count w, .writeReserved1 rsv typ count w,
      .writeReserved2 rsv typ count w, .writeReserved3 rsv typ count w],
    exec i s = .next (answered (.fail
      (if typ ≠ s.params.typeU8 then .typeMismatch else if count ≠ 1#8 then .elementCountMismatch
        else .reservedRegisterWrite)) s)

/-- 40_register_bank.md R141: outside the window a READ or WRITE fails with InvalidAddress, whatever the
type, the count and the data, and changes nothing. -/
def Obligations.OutsideTheWindowFails : Prop :=
  ∀ (rsv : BitVec 4) (addr typ count : Byte) (w : Half) (s : State), ¬ inWindow s.params addr →
    exec (.readOutsideWindow rsv addr typ count) s = .next (answered (.fail .invalidAddress) s) ∧
    exec (.writeOutsideWindow rsv addr typ count w) s = .next (answered (.fail .invalidAddress) s)

/-- 40_register_bank.md R142: a reserved command code fails with InvalidCommand, OK = 0 and RDATA = 0, and
changes nothing. -/
def Obligations.ReservedCommandsFail : Prop :=
  ∀ (rest : BitVec 28) (low2 : BitVec 2) (low3 : BitVec 3) (s : State), ∀ i ∈
    [Instr.reservedCmd0 rest, .reservedCmd4to7 low2 rest, .reservedCmd8toF low3 rest],
    exec i s = .next (answered (.fail .invalidCommand) s) ∧
    okBit (.fail .invalidCommand) = 0#1 ∧ rdata (.fail .invalidCommand) = 0#16

/-- 40_register_bank.md R143: a host command that fails leaves every element of the state unchanged and
emits no notification, and so does a successful READ. -/
def Obligations.FailedCommandChangesNothing : Prop :=
  ∀ (i : Instr) (s t : State), i.kind.isHost → exec i s = .next t →
    ∃ r, t.responses = s.responses ++ [r] ∧
      (okBit r = 0#1 ∨ i.kind = .read → t = answered r s)

/-- One response per host command, in its own step, and none from an event, in the list the model keeps the
answers in (log 10); RDATA is 0 on every failure and for every command but READ (00_scope.md R22,
30_encoding.md R93). -/
def Obligations.HostCommandsAnswerExactlyOnce : Prop :=
  ∀ (i : Instr) (s t : State), i.WellFormed s.params → exec i s = .next t →
    (i.kind.isHost = false → t.responses = s.responses) ∧
    (i.kind.isHost = true → ∃ r, t.responses = s.responses ++ [r] ∧
      (okBit r = 0#1 ∨ i.kind ≠ .read → rdata r = 0x0000#16))

/-- 70_reset_and_hazards.md R298: a host WRITE OUTPUTS during a pending pulse does not cancel it, and
PULSE_FIRE still forces OUT = 0; a write of OUTPUT_MODE or REINIT cancels it. -/
def Obligations.HostWriteDoesNotCancelAPulse : Prop :=
  ∀ (rsv : BitVec 4) (w : Half) (x : BitVec 28) (s : State) (us : Nat), s.tmr = .armed us →
    (∃ t, exec (.writeOutputs rsv s.params.typeU8 1#8 w) s = .next t ∧ t.tmr = .armed us ∧
      ∃ u, exec .pulseFire t = .next u ∧ u.out = 0#1) ∧
    (legalOutput s.params (w.extractLsb' 0 8) →
      ∃ t, exec (.writeOutputMode rsv s.params.typeU8 1#8 w) s = .next t ∧ t.tmr = .idle) ∧
    (∃ t, exec (.reinit x) s = .next t ∧ t.tmr = .idle)

/-! ## Capture -/

/-- 41_capture.md R164 and R165 with 30_encoding.md R101: a flag is set exactly by an armed matching edge
on a line of its group, RAW and STRAP become the pin word's, and nothing else changes. RAW is PV[8:0]
and STRAP is PV[10:9] by default; the fields and the groups with other numbers of lines are the model's choice
(log 9). -/
def Obligations.PinsSetsFlagsOfArmedEdges : Prop :=
  ∀ (pv : Lines) (s : State), ∃ p : Pending,
    exec (.pins pv) s = .next { s with
      pend := p, raw := pv &&& inputBits s.params
      strap := (pv >>> s.params.nIn) &&& BitVec.ofNat 16 (2 ^ s.params.nStrap - 1) } ∧
    ∀ g, (pending p g = true ↔ pending s.pend g = true ∨ ∃ i < s.params.nIn, groupOf i = g ∧
      matches? (s.arm.getD i .off) (s.raw.getLsbD i) (pv.getLsbD i))

/-- 41_capture.md R160 and 10_state.md R40: the low N_IN bits are the NOT of the raw levels, each strap line
has a position of its own above them, inverted as STRAP_INVERT says, and every other bit is 0. By default these
are the rule's bits 8:0 and positions in 15:9; with other numbers of lines they are the model's choice (log 9). -/
def Obligations.SnapshotPacksTheLines : Prop :=
  ∀ (p : Params) (raw strap : Lines), let snap := mkSnapshot p raw strap
    p.strapPos.length = p.nStrap ∧
    (∀ j k q : Nat, p.strapPos[j]? = some q → p.strapPos[k]? = some q → j = k) ∧
    (∀ i, i < p.nIn → snap.getLsbD i = !raw.getLsbD i) ∧
    (∀ j q : Nat, p.strapPos[j]? = some q → p.nIn ≤ q ∧ q < 16 ∧
      snap.getLsbD q = (strap.getLsbD j ^^ p.strapInvert)) ∧
    ∀ i : Nat, p.nIn ≤ i → i ∉ p.strapPos → snap.getLsbD i = false

/-- 41_capture.md R166 with 42_output.md R200 to R204 and R220: what an accepted sample does, by output
mode, and that an unfiltered sample is always accepted. A filtered one
compares the low 9 bits by default; the low N_IN bits with another N_IN, and that an OMODE that is no code has no
action, are the model's choices (log 9, log 15). -/
def Obligations.AcceptedSampleRunsTheModesAction : Prop :=
  ∀ s : State, takeSample s = sampled s ∧ acceptSample false s = sampled s ∧
    acceptSample true s = if SameInputs s then s else sampled s

/-- 41_capture.md R168: with PEND[0] = 1 the handler clears the flag, and samples exactly when its gate is
open and the low N_IN bits differ: the low 9 by default, and with another N_IN the
model's choice (log 9). What the sample does under an OMODE that is no code is its choice too (log 15). -/
def Obligations.EdgeG0SamplesThroughItsGate : Prop :=
  ∀ s : State, s.pend.g0 = true →
    let t := { s with pend := { s.pend with g0 := false } }
    exec .edgeG0 s = .next (if gateOpen s ∧ ¬ SameInputs s then sampled t else t)

/-- 41_capture.md R169 and R170: with its flag set each handler clears it, and samples exactly under
OnAnyChange when the low N_IN bits differ: the low 9 by default, and with another N_IN the
model's choice (log 9). What the sample does under an OMODE that is no code is its choice too (log 15). -/
def Obligations.EdgeG1AndG2SampleUnderOnAnyChange : Prop :=
  ∀ s : State,
    (s.pend.g1 = true → let t := { s with pend := { s.pend with g1 := false } }
      exec .edgeG1 s = .next
        (if s.catchCode = s.params.catchCodes[1] ∧ ¬ SameInputs s then sampled t else t)) ∧
    (s.pend.g2 = true → let t := { s with pend := { s.pend with g2 := false } }
      exec .edgeG2 s = .next
        (if s.catchCode = s.params.catchCodes[1] ∧ ¬ SameInputs s then sampled t else t))

/-- 41_capture.md R167: an edge sample whose low N_IN bits equal INPUTS_STATE's is discarded (only the flag
changes), and a poll sample is never filtered. The low 9 bits by default; the low N_IN bits with another N_IN,
and what a sample does under an OMODE that is no code, are the model's choices (log 9, log 15). -/
def Obligations.OnlyEdgeSamplesAreFiltered : Prop :=
  ∀ (g : Group) (s : State), SameInputs s →
    (pending s.pend g = true → exec (edgeInstr g) s = .next { s with
      pend := { g0 := s.pend.g0 && g ≠ .g0, g1 := s.pend.g1 && g ≠ .g1, g2 := s.pend.g2 && g ≠ .g2 } }) ∧
    (TickDue s → exec .baseTick s = .next { sampled s with
      phase := (s.phase + 1) % 2 ^ s.params.phaseW })

/-- 41_capture.md R171: the tick samples, unfiltered, exactly in a poll mode whose DIV divides PHASE before
the increment, and PHASE counts modulo 2^PHASE_W in every mode. What the sample does under an OMODE that is no
code, and what it packs with other numbers of lines, are the model's choices (log 15, log 9). -/
def Obligations.BaseTickSamplesByTheDivisor : Prop :=
  ∀ s : State, exec .baseTick s = .next { (if TickDue s then sampled s else s) with
    phase := (s.phase + 1) % 2 ^ s.params.phaseW }

/-- 41_capture.md R172: `S.PHASE <- 0`, and it does not sample. -/
def Obligations.SecondTickResetsThePhase : Prop :=
  ∀ s : State, exec .secondTick s = .next { s with phase := 0 }

/-! ## Output and control -/

/-- 42_output.md R205: with TMR = Armed(_) the fire forces OUT low and disarms; and the fire is not enabled
after a fire, an accepted mode write, REINIT or FORCE_SAFE. -/
def Obligations.PulseFireEndsThePulseOnce : Prop :=
  (∀ (s : State) (us : Nat), s.tmr = .armed us →
    exec .pulseFire s = .next { s with out := 0#1, tmr := .idle }) ∧
  (∀ (i : Instr) (s t : State), exec i s = .next t →
    i.kind = .pulseFire ∨ i.kind = .reinit ∨ i.kind = .forceSafe ∨
      (i.kind = .write .outputMode ∧ t.responses = s.responses ++ [.ok 0#16]) →
    ∀ u, exec .pulseFire t ≠ .next u)

/-- 42_output.md R222: only an accepted sample of an edge handler or a base tick notifies, once, with the
address of INPUTS_STATE and its new value, and only with EVT_EN set. -/
def Obligations.OnlyAcceptedSamplesNotify : Prop :=
  ∀ (i : Instr) (s t : State), exec i s = .next t → t.notifications ≠ s.notifications →
    i.kind.maySample = true ∧ s.even.getLsbD 0 = true ∧ t.instate = mkSnapshot s.params s.raw s.strap ∧
    t.notifications = s.notifications ++ [⟨inputsStateAddr s.params, t.instate⟩]

/-- 43_control.md R240. The codes of OnAnyChange and Toggle are those at place 1 of their lists, 1 by default
(DefaultParametersAreTheSpecs). The arming of N_IN lines other than nine is the model's choice (log 9). -/
def Obligations.ReinitRestoresTheDefaults : Prop :=
  ∀ (x : BitVec 28) (s : State), exec (.reinit x) s = .next (answered (.ok 0#16) { s with
    tmr := .idle, out := 0#1, catchCode := s.params.catchCodes[1]
    arm := arming s.params s.params.catchCodes[1], omode := s.params.omodeCodes[1], even := 0x01#8
    phase := 0 })

/-- 43_control.md R241. -/
def Obligations.ForceSafeDrivesTheOutputLow : Prop :=
  ∀ s : State, exec .forceSafe s = .next { s with tmr := .idle, out := 0#1 }

/-! ## The whole machine -/

/-- The writer matrix (10_state.md R50, derived there): an element that an instruction changes has that kind
of step in its row. The last line is about the model's own fields and no row of R50: no meaning (`exec`)
changes the list of chosen inputs, whose head `step` takes (log 1), or the parameters (log 7). -/
def Obligations.OnlyTheListedStepsWriteAnElement : Prop :=
  ∀ (i : Instr) (s t : State), i.WellFormed s.params → exec i s = .next t →
    (t.out ≠ s.out → i.kind = .write .outputs ∨ i.kind = .write .outputMode ∨
      i.kind.maySample = true ∨ i.kind = .pulseFire ∨ i.kind = .reinit ∨ i.kind = .forceSafe) ∧
    (t.catchCode ≠ s.catchCode ∨ t.arm ≠ s.arm →
      i.kind = .write .inputCatchMode ∨ i.kind = .reinit) ∧
    (t.omode ≠ s.omode → i.kind = .write .outputMode ∨ i.kind = .reinit) ∧
    (t.even ≠ s.even → i.kind = .write .evntEnable ∨ i.kind = .reinit) ∧
    (t.instate ≠ s.instate → i.kind.maySample = true) ∧
    (∀ g, pending t.pend g ≠ pending s.pend g →
      i.kind = .pins ∨ i.kind = .edge g ∨ i.kind = .write .inputCatchMode) ∧
    (t.phase ≠ s.phase → i.kind = .baseTick ∨ i.kind = .secondTick ∨ i.kind = .reinit) ∧
    (t.tmr ≠ s.tmr → (i.kind.maySample = true ∧ IsPulseCode s.params s.omode) ∨ i.kind = .pulseFire ∨
      i.kind = .write .outputMode ∨ i.kind = .reinit ∨ i.kind = .forceSafe) ∧
    (t.raw ≠ s.raw ∨ t.strap ≠ s.strap → i.kind = .pins) ∧
    t.inputs = s.inputs ∧ t.params = s.params

/-- The trigger sources exclude each other (41_capture.md R173 and R174, derived there): in Disabled and
the edge modes a base tick only counts, and in Disabled and the poll modes no edge handler is enabled.
The named fault is the model's form of a step that is not enabled (log 3), and the arming of other numbers of
lines than nine is its choice (log 9). -/
def Obligations.TriggerSourcesAreExclusive : Prop :=
  ∀ s : State, State.Inv s →
    let code := s.params.catchCodes
    (s.catchCode = code[0] ∨ s.catchCode = code[1] ∨ s.catchCode = code[2] ∨ s.catchCode = code[3] →
      exec .baseTick s = .next { s with phase := (s.phase + 1) % 2 ^ s.params.phaseW }) ∧
    (s.catchCode = code[0] ∨ divOf s.params s.catchCode ≠ 0 →
      ∀ g, exec (edgeInstr g) s = .fault (.stepNotEnabled (.edgeGroup g))) ∧
    (s.catchCode = code[2] ∨ s.catchCode = code[3] → ∀ g, g ≠ .g0 →
      exec (edgeInstr g) s = .fault (.stepNotEnabled (.edgeGroup g)))

/-- Two edge triggers with one pattern (95_test_vectors.md W4): under OnAnyChange the second handler, with
the pins as they were, updates nothing and notifies nothing. The filter's low N_IN bits with another N_IN are the
model's choice (log 9). -/
def Obligations.SecondEdgeOfOnePatternIsDiscarded : Prop :=
  ∀ (g k : Group) (s t : State), s.catchCode = s.params.catchCodes[1] →
    exec (edgeInstr g) s = .next t →
    pending t.pend k = true → ∃ u, exec (edgeInstr k) t = .next u ∧
      u = { t with pend := u.pend } ∧ ∀ j, pending u.pend j = (pending t.pend j && j ≠ k)

/-- End to end (95_test_vectors.md W8): under OnAnyChange, Toggle and EVT_EN, input 0's raw level falls and
the handler runs: bit 0 of INPUTS_STATE flips, the output flips, and one notification carries the new
value to the address of INPUTS_STATE. The pin word and the input bits with other numbers of lines than nine and
two are the model's choice (log 9). -/
def Obligations.FallingInputZeroIsCapturedEndToEnd : Prop :=
  ∀ s : State, State.Inv s → s.catchCode = s.params.catchCodes[1] → s.omode = s.params.omodeCodes[1] →
    s.even = 0x01#8 →
    s.raw.getLsbD 0 = true → s.instate &&& inputBits s.params = ~~~s.raw &&& inputBits s.params →
    ∃ t, runInstrs [.pins ((s.raw ^^^ 1#16) ||| s.strap <<< s.params.nIn), .edgeG0] s = .next t ∧
      t.instate &&& inputBits s.params = (s.instate &&& inputBits s.params) ^^^ 1#16 ∧ t.out = s.out ^^^ 1#1 ∧
      t.notifications = s.notifications ++ [⟨inputsStateAddr s.params, t.instate⟩] ∧ t.tmr = s.tmr

/-- The poll cadence (41_capture.md R175, derived there): from PHASE = 0, and as long as the counter does
not wrap, n ticks take one sample at every tick whose count DIV divides: n / DIV of them where DIV divides
n, and with the default parameters 2000 / DIV in 2000 ticks. With EVT_EN set the samples are counted by
their notifications; with it clear each tick is as BaseTickSamplesByTheDivisor says. -/
def Obligations.PollModesKeepTheirCadence : Prop :=
  ∀ s : State, let d := divOf s.params s.catchCode
    d ≠ 0 → s.phase = 0 → s.even.getLsbD 0 = true →
    (∀ n, n ≤ 2 ^ s.params.phaseW → ∃ t, runInstrs (ticks n) s = .next t ∧
      t.notifications.length = s.notifications.length + (n + d - 1) / d ∧
      (d ∣ n → t.notifications.length = s.notifications.length + n / d) ∧
      t.phase = n % 2 ^ s.params.phaseW ∧ t.catchCode = s.catchCode) ∧
    (s.params = defaultParams → ∃ t, runInstrs (ticks 2000) s = .next t ∧
      t.notifications.length = s.notifications.length + 2000 / d)

/-- 10_state.md R39: no rule but the host's READ of INPUTS_STATE reads the bits of a snapshot above the inputs,
15:9 by default. Two states that agree once the straps and those bits are forgotten answer alike and stay
so, whatever the step; and a PINS that differs in its strap bits only does not tell them apart. The bits
above the inputs with other numbers of lines are the model's choice (log 9). -/
def Obligations.StrapBitsInfluenceNothingElse : Prop :=
  (∀ (i : Instr) (s t s' : State), forgetStraps s = forgetStraps t → exec i s = .next s' →
    ∃ t', exec i t = .next t' ∧ forgetStraps s' = forgetStraps t') ∧
  (∀ (pv qv : Lines) (s t s' : State), forgetStraps s = forgetStraps t →
    pv &&& inputBits s.params = qv &&& inputBits s.params → exec (.pins pv) s = .next s' →
    ∃ t', exec (.pins qv) t = .next t' ∧ forgetStraps s' = forgetStraps t')

/-! ## The parameters -/

/-- 00_scope.md R10, R11, R14 to R17 and R19 with 10_state.md R32, R40 and 30_encoding.md R94, R96 and R97:
the default of every parameter, that STRAP_POS is two distinct positions in 15:9, that DIV is base/target, and
that a byte names the mode of its place in the list of codes, or none. -/
def Obligations.DefaultParametersAreTheSpecs : Prop :=
  State.reset.params = defaultParams ∧ defaultParams.nIn = 9 ∧ defaultParams.nStrap = 2 ∧
  (∃ q₀ q₁, defaultParams.strapPos = [q₀, q₁] ∧ q₀ ≠ q₁ ∧ 9 ≤ q₀ ∧ q₀ ≤ 15 ∧ 9 ≤ q₁ ∧ q₁ ≤ 15) ∧
  defaultParams.base.val = 32 ∧ (∀ i : Fin 9, (defaultParams.offsets[i]).val = i.val) ∧
  defaultParams.typeU8 = 0x01#8 ∧ defaultParams.typeU16 = 0x02#8 ∧
  (∀ c : Byte, captureMode? defaultParams c =
    if c = 0#8 then some .disabled else if c = 1#8 then some .onAnyChange
    else if c = 2#8 then some .riseOnInput0 else if c = 3#8 then some .fallOnInput0
    else if c = 4#8 then some .poll100Hz else if c = 5#8 then some .poll250Hz
    else if c = 6#8 then some .poll500Hz else if c = 7#8 then some .poll1000Hz
    else if c = 8#8 then some .poll2000Hz else none) ∧
  (∀ c : Byte, outputMode? defaultParams c =
    if c = 0#8 then some .notUsed else if c = 1#8 then some .toggle
    else if c = 2#8 then some .mirrorInput0 else if c = 3#8 then some (.pulse .us250)
    else if c = 4#8 then some (.pulse .us500) else if c = 5#8 then some (.pulse .ms1)
    else if c = 6#8 then some (.pulse .ms2) else if c = 7#8 then some (.pulse .ms5) else none) ∧
  defaultParams.baseHz = 2000 ∧
  [CaptureMode.poll100Hz, .poll250Hz, .poll500Hz, .poll1000Hz, .poll2000Hz].map
      (pollDivisor defaultParams) = [some (2000 / 100), some (2000 / 250), some (2000 / 500),
        some (2000 / 1000), some (2000 / 2000)] ∧
  [PulseWidth.us250, .us500, .ms1, .ms2, .ms5].map (pulseUs defaultParams) =
    [250, 500, 1000, 2000, 5000] ∧
  defaultParams.phaseW = 16
end

