-- ==== Sys2Proof/Laws/Decode.lean ====
section
/-! SUPPORT. The fields of a command word, the register map, and the numbers on the port. -/

namespace Sys2Proof

/-! ## A word of its fields has those fields -/

@[simp] theorem hcwCmd_hcw (cmd rsv : BitVec 4) (addr typ count : Byte) :
    hcwCmd (hcw cmd rsv addr typ count) = cmd := by
  unfold hcwCmd hcw
  ext i hi
  simp only [BitVec.getElem_extractLsb', BitVec.getLsbD_append]
  grind

@[simp] theorem hcwRsv_hcw (cmd rsv : BitVec 4) (addr typ count : Byte) :
    hcwRsv (hcw cmd rsv addr typ count) = rsv := by
  unfold hcwRsv hcw
  ext i hi
  simp only [BitVec.getElem_extractLsb', BitVec.getLsbD_append]
  grind

@[simp] theorem hcwAddr_hcw (cmd rsv : BitVec 4) (addr typ count : Byte) :
    hcwAddr (hcw cmd rsv addr typ count) = addr := by
  unfold hcwAddr hcw
  ext i hi
  simp only [BitVec.getElem_extractLsb', BitVec.getLsbD_append]
  grind

@[simp] theorem hcwType_hcw (cmd rsv : BitVec 4) (addr typ count : Byte) :
    hcwType (hcw cmd rsv addr typ count) = typ := by
  unfold hcwType hcw
  ext i hi
  simp only [BitVec.getElem_extractLsb', BitVec.getLsbD_append]
  grind

@[simp] theorem hcwCount_hcw (cmd rsv : BitVec 4) (addr typ count : Byte) :
    hcwCount (hcw cmd rsv addr typ count) = count := by
  unfold hcwCount hcw
  ext i hi
  simp only [BitVec.getElem_extractLsb', BitVec.getLsbD_append]
  grind

@[simp] theorem hcwCmd_hcwOfRest (cmd : BitVec 4) (rest : BitVec 28) :
    hcwCmd (hcwOfRest cmd rest) = cmd := by
  unfold hcwCmd hcwOfRest
  ext i hi
  simp only [BitVec.getElem_extractLsb', BitVec.getLsbD_append]
  grind

@[simp] theorem hcwRest_hcwOfRest (cmd : BitVec 4) (rest : BitVec 28) :
    hcwRest (hcwOfRest cmd rest) = rest := by
  unfold hcwRest hcwOfRest
  ext i hi
  simp only [BitVec.getElem_extractLsb', BitVec.getLsbD_append]
  grind

/-! ## The fields of a word make the word -/

theorem hcw_of_fields (h : CommandWord) :
    hcw (hcwCmd h) (hcwRsv h) (hcwAddr h) (hcwType h) (hcwCount h) = h := by
  unfold hcw hcwCmd hcwRsv hcwAddr hcwType hcwCount
  ext i hi
  simp only [BitVec.getElem_append]
  grind

theorem hcwOfRest_of_fields (h : CommandWord) : hcwOfRest (hcwCmd h) (hcwRest h) = h := by
  unfold hcwOfRest hcwCmd hcwRest
  ext i hi
  simp only [BitVec.getElem_append]
  grind

/-! ## The register map -/

/-- Looking a code up in a list that holds every name, no two under one code, finds the name whose code it
is. -/
theorem find?_by_code {α β : Type} [BEq β] [LawfulBEq β] {names : List α} {code : α → β}
    {b : β} {x : α}
    (all : ∀ y, y ∈ names) (distinct : (names.map code).Nodup) :
    names.find? (fun y => code y == b) = some x ↔ b = code x := by
  refine ⟨fun h => (beq_iff_eq.mp (List.find?_some (p := fun y => code y == b) h)).symm, ?_⟩
  rintro rfl
  cases h : names.find? (fun y => code y == code x) with
  | none => exact absurd (List.find?_eq_none.mp h x (all x)) (by simp)
  | some y =>
    have e := beq_iff_eq.mp (List.find?_some (p := fun y => code y == code x) h)
    rw [List.inj_on_of_nodup_map distinct (all y) (all x) e]

theorem mem_registers (r : Register) : r ∈ Machine.registers := by cases r <;> decide

theorem map_registerOffset (p : Params) :
    Machine.registers.map (Machine.registerOffset p) = p.offsets.toList := by
  refine List.ext_getElem (by simp [Machine.registers]) fun i h _ => ?_
  replace h : i < 9 := by simpa [Machine.registers] using h
  interval_cases i <;> simp [Machine.registers, Machine.registerOffset]

theorem registerAddr_toNat (p : Params) (r : Register) :
    (Machine.registerAddr p r).toNat = p.base.val + (Machine.registerOffset p r).val := by
  have := p.base.isLt
  have := (Machine.registerOffset p r).isLt
  simp only [Machine.registerAddr, BitVec.toNat_ofNat]
  omega

theorem registerAddr_distinct (p : Params) : (Machine.registers.map (Machine.registerAddr p)).Nodup := by
  have h := (map_registerOffset p).symm ▸ p.offsetsDistinct
  refine List.Nodup.map_on (fun r hr q hq e => List.inj_on_of_nodup_map h hr hq (Fin.ext ?_))
    (List.Nodup.of_map _ h)
  have := congrArg BitVec.toNat e
  rw [registerAddr_toNat, registerAddr_toNat] at this
  omega

theorem validAddr_registerAddr (p : Params) (r : Register) :
    Machine.validAddr p (Machine.registerAddr p r) = true := by
  have := (Machine.registerOffset p r).isLt
  simp only [Machine.validAddr, registerAddr_toNat, decide_eq_true_eq]
  omega

@[simp] theorem registerAt_registerAddr (p : Params) (r : Register) :
    Machine.registerAt p (Machine.registerAddr p r) = some r := by
  rw [Machine.registerAt, validAddr_registerAddr, if_pos rfl]
  exact (find?_by_code mem_registers (registerAddr_distinct p)).mpr rfl

theorem registerAt_eq_none_of_not_valid {p : Params} {a : Byte}
    (h : Machine.validAddr p a = false) : Machine.registerAt p a = none := by
  simp [Machine.registerAt, h]

theorem validAddr_of_registerAt {p : Params} {a : Byte} {r : Register}
    (h : Machine.registerAt p a = some r) : Machine.validAddr p a = true := by
  cases hv : Machine.validAddr p a
  · rw [registerAt_eq_none_of_not_valid hv] at h
    cases h
  · rfl

/-- Nine distinct offsets fill the window, so a register stands at each. -/
theorem exists_registerOffset (p : Params) (n : Fin 9) : ∃ r, Machine.registerOffset p r = n := by
  have h := map_registerOffset p
  have full : n ∈ p.offsets.toList := by
    have card : p.offsets.toList.toFinset = Finset.univ :=
      Finset.eq_univ_of_card _ (by rw [List.toFinset_card_of_nodup p.offsetsDistinct]; simp)
    exact List.mem_toFinset.mp (card ▸ Finset.mem_univ n)
  rw [← h] at full
  obtain ⟨r, -, hr⟩ := List.mem_map.mp full
  exact ⟨r, hr⟩

/-- A valid address is the address of a register. -/
theorem exists_registerAddr {p : Params} {a : Byte} (h : Machine.validAddr p a = true) :
    ∃ r, Machine.registerAddr p r = a := by
  simp only [Machine.validAddr, decide_eq_true_eq] at h
  obtain ⟨r, hr⟩ := exists_registerOffset p ⟨a.toNat - p.base.val, by omega⟩
  refine ⟨r, BitVec.eq_of_toNat_eq ?_⟩
  rw [registerAddr_toNat, hr]
  simp only
  omega

theorem registerAddr_of_registerAt {p : Params} {a : Byte} {r : Register}
    (h : Machine.registerAt p a = some r) : Machine.registerAddr p r = a := by
  obtain ⟨q, rfl⟩ := exists_registerAddr (validAddr_of_registerAt h)
  rw [registerAt_registerAddr] at h
  cases h
  rfl

theorem registerAt_eq_none_iff (p : Params) (a : Byte) :
    Machine.registerAt p a = none ↔ Machine.validAddr p a = false := by
  refine ⟨fun h => ?_, registerAt_eq_none_of_not_valid⟩
  cases hv : Machine.validAddr p a
  · rfl
  · obtain ⟨r, rfl⟩ := exists_registerAddr hv
    simp at h

/-! ## Decoding by CMD (30_encoding.md R102) -/

theorem decodeCommand_read (p : Params) {h : CommandWord} (e : hcwCmd h = 1#4) (w : Half) :
    decodeCommand p h w = decodeRead p (hcwRsv h) (hcwAddr h) (hcwType h) (hcwCount h) := by
  simp [decodeCommand, e]

theorem decodeCommand_write (p : Params) {h : CommandWord} (e : hcwCmd h = 2#4) (w : Half) :
    decodeCommand p h w = decodeWrite p (hcwRsv h) (hcwAddr h) (hcwType h) (hcwCount h) w := by
  simp [decodeCommand, e]

theorem decodeCommand_reinit (p : Params) {h : CommandWord} (e : hcwCmd h = 3#4) (w : Half) :
    decodeCommand p h w = .reinit (hcwRest h) := by
  simp [decodeCommand, e]

theorem decodeCommand_reserved0 (p : Params) {h : CommandWord} (e : hcwCmd h = 0#4) (w : Half) :
    decodeCommand p h w = .reservedCmd0 (hcwRest h) := by
  simp [decodeCommand, e]

theorem decodeCommand_reserved4to7 (p : Params) {h : CommandWord} (low : BitVec 2) (e : hcwCmd h = 1#2 ++ low)
    (w : Half) : decodeCommand p h w = .reservedCmd4to7 low (hcwRest h) := by
  have all : ∀ x : BitVec 2, x = 0#2 ∨ x = 1#2 ∨ x = 2#2 ∨ x = 3#2 := by decide
  obtain rfl | rfl | rfl | rfl := all low <;> simp [decodeCommand, e]

theorem decodeCommand_reserved8toF (p : Params) {h : CommandWord} (low : BitVec 3) (e : hcwCmd h = 1#1 ++ low)
    (w : Half) : decodeCommand p h w = .reservedCmd8toF low (hcwRest h) := by
  have hlow : h.extractLsb' 28 3 = low := by
    have hc : (hcwCmd h).extractLsb' 0 3 = low := by
      rw [e]
      ext i hi
      simp only [BitVec.getElem_extractLsb', BitVec.getLsbD_append]
      grind
    rw [← hc]
    unfold hcwCmd
    ext i hi
    simp only [BitVec.getElem_extractLsb', BitVec.getLsbD_extractLsb']
    grind
  have big : ∀ x : BitVec 3, 8 ≤ (1#1 ++ x).toNat := by decide
  have hbig := big low
  unfold decodeCommand
  rw [e, hlow]
  split <;> first | omega | rfl

/-- Every CMD is one of the six cases above. -/
theorem cmd_cases (c : BitVec 4) : c = 1#4 ∨ c = 2#4 ∨ c = 3#4 ∨ c = 0#4 ∨
    (∃ low : BitVec 2, c = 1#2 ++ low) ∨ ∃ low : BitVec 3, c = 1#1 ++ low := by
  revert c
  decide

/-! ## Numbers on the port -/

@[simp] theorem decode_command (p : Params) (h : CommandWord) (w : Half) :
    decode p (.command h.toNat w.toNat) = .ok (decodeCommand p h w) := by
  simp [decode, h.isLt, w.isLt]

@[simp] theorem decode_command_zero (p : Params) (h : CommandWord) :
    decode p (.command h.toNat 0) = .ok (decodeCommand p h 0#16) := by
  simp [decode, h.isLt]

/-- A label with no pin word. -/
@[simp] theorem decode_event_zero (p : Params) {ev : Nat} (h : ev < 16) :
    decode p (.event ev 0) = decodeEvent (BitVec.ofNat 4 ev) 0#16 := by
  simp [decode, h]

theorem decode_pins {p : Params} {pv : Lines} (h : pv.toNat < 2 ^ Machine.pinBits p) :
    decode p (.event 1 pv.toNat) = .ok (.pins pv) := by
  simp [decode, decodeEvent, h]

end Sys2Proof
end

