-- ==== Sys2Proof/Laws/State.lean ====
section
/-! SUPPORT. One lemma per field per named update of the state, each by definition. -/

namespace Sys2Proof.Machine

@[simp] theorem respond_out (r : Response) (s : State) : (respond r s).out = s.out := rfl
@[simp] theorem respond_catchCode (r : Response) (s : State) :
    (respond r s).catchCode = s.catchCode := rfl
@[simp] theorem respond_omode (r : Response) (s : State) : (respond r s).omode = s.omode := rfl
@[simp] theorem respond_even (r : Response) (s : State) : (respond r s).even = s.even := rfl
@[simp] theorem respond_instate (r : Response) (s : State) :
    (respond r s).instate = s.instate := rfl
@[simp] theorem respond_arm (r : Response) (s : State) : (respond r s).arm = s.arm := rfl
@[simp] theorem respond_pend (r : Response) (s : State) : (respond r s).pend = s.pend := rfl
@[simp] theorem respond_phase (r : Response) (s : State) : (respond r s).phase = s.phase := rfl
@[simp] theorem respond_tmr (r : Response) (s : State) : (respond r s).tmr = s.tmr := rfl
@[simp] theorem respond_raw (r : Response) (s : State) : (respond r s).raw = s.raw := rfl
@[simp] theorem respond_strap (r : Response) (s : State) : (respond r s).strap = s.strap := rfl
@[simp] theorem respond_params (r : Response) (s : State) : (respond r s).params = s.params := rfl
@[simp] theorem respond_notifications (r : Response) (s : State) :
    (respond r s).notifications = s.notifications := rfl
@[simp] theorem respond_responses (r : Response) (s : State) :
    (respond r s).responses = s.responses ++ [r] := rfl
@[simp] theorem respond_inputs (r : Response) (s : State) : (respond r s).inputs = s.inputs := rfl

@[simp] theorem emitNotify_out (a : Byte) (v : Half) (s : State) :
    (emitNotify a v s).out = s.out := rfl
@[simp] theorem emitNotify_catchCode (a : Byte) (v : Half) (s : State) :
    (emitNotify a v s).catchCode = s.catchCode := rfl
@[simp] theorem emitNotify_omode (a : Byte) (v : Half) (s : State) :
    (emitNotify a v s).omode = s.omode := rfl
@[simp] theorem emitNotify_even (a : Byte) (v : Half) (s : State) :
    (emitNotify a v s).even = s.even := rfl
@[simp] theorem emitNotify_instate (a : Byte) (v : Half) (s : State) :
    (emitNotify a v s).instate = s.instate := rfl
@[simp] theorem emitNotify_arm (a : Byte) (v : Half) (s : State) :
    (emitNotify a v s).arm = s.arm := rfl
@[simp] theorem emitNotify_pend (a : Byte) (v : Half) (s : State) :
    (emitNotify a v s).pend = s.pend := rfl
@[simp] theorem emitNotify_phase (a : Byte) (v : Half) (s : State) :
    (emitNotify a v s).phase = s.phase := rfl
@[simp] theorem emitNotify_tmr (a : Byte) (v : Half) (s : State) :
    (emitNotify a v s).tmr = s.tmr := rfl
@[simp] theorem emitNotify_raw (a : Byte) (v : Half) (s : State) :
    (emitNotify a v s).raw = s.raw := rfl
@[simp] theorem emitNotify_strap (a : Byte) (v : Half) (s : State) :
    (emitNotify a v s).strap = s.strap := rfl
@[simp] theorem emitNotify_params (a : Byte) (v : Half) (s : State) :
    (emitNotify a v s).params = s.params := rfl
@[simp] theorem emitNotify_notifications (a : Byte) (v : Half) (s : State) :
    (emitNotify a v s).notifications = s.notifications ++ [⟨a, v⟩] := rfl
@[simp] theorem emitNotify_responses (a : Byte) (v : Half) (s : State) :
    (emitNotify a v s).responses = s.responses := rfl
@[simp] theorem emitNotify_inputs (a : Byte) (v : Half) (s : State) :
    (emitNotify a v s).inputs = s.inputs := rfl

@[simp] theorem timerArm_out (us : Nat) (s : State) : (timerArm us s).out = s.out := rfl
@[simp] theorem timerArm_catchCode (us : Nat) (s : State) :
    (timerArm us s).catchCode = s.catchCode := rfl
@[simp] theorem timerArm_omode (us : Nat) (s : State) : (timerArm us s).omode = s.omode := rfl
@[simp] theorem timerArm_even (us : Nat) (s : State) : (timerArm us s).even = s.even := rfl
@[simp] theorem timerArm_instate (us : Nat) (s : State) : (timerArm us s).instate = s.instate := rfl
@[simp] theorem timerArm_arm (us : Nat) (s : State) : (timerArm us s).arm = s.arm := rfl
@[simp] theorem timerArm_pend (us : Nat) (s : State) : (timerArm us s).pend = s.pend := rfl
@[simp] theorem timerArm_phase (us : Nat) (s : State) : (timerArm us s).phase = s.phase := rfl
@[simp] theorem timerArm_tmr (us : Nat) (s : State) : (timerArm us s).tmr = .armed us := rfl
@[simp] theorem timerArm_raw (us : Nat) (s : State) : (timerArm us s).raw = s.raw := rfl
@[simp] theorem timerArm_strap (us : Nat) (s : State) : (timerArm us s).strap = s.strap := rfl
@[simp] theorem timerArm_params (us : Nat) (s : State) : (timerArm us s).params = s.params := rfl
@[simp] theorem timerArm_notifications (us : Nat) (s : State) :
    (timerArm us s).notifications = s.notifications := rfl
@[simp] theorem timerArm_responses (us : Nat) (s : State) :
    (timerArm us s).responses = s.responses := rfl
@[simp] theorem timerArm_inputs (us : Nat) (s : State) : (timerArm us s).inputs = s.inputs := rfl

@[simp] theorem timerDisarm_out (s : State) : (timerDisarm s).out = s.out := rfl
@[simp] theorem timerDisarm_catchCode (s : State) : (timerDisarm s).catchCode = s.catchCode := rfl
@[simp] theorem timerDisarm_omode (s : State) : (timerDisarm s).omode = s.omode := rfl
@[simp] theorem timerDisarm_even (s : State) : (timerDisarm s).even = s.even := rfl
@[simp] theorem timerDisarm_instate (s : State) : (timerDisarm s).instate = s.instate := rfl
@[simp] theorem timerDisarm_arm (s : State) : (timerDisarm s).arm = s.arm := rfl
@[simp] theorem timerDisarm_pend (s : State) : (timerDisarm s).pend = s.pend := rfl
@[simp] theorem timerDisarm_phase (s : State) : (timerDisarm s).phase = s.phase := rfl
@[simp] theorem timerDisarm_tmr (s : State) : (timerDisarm s).tmr = .idle := rfl
@[simp] theorem timerDisarm_raw (s : State) : (timerDisarm s).raw = s.raw := rfl
@[simp] theorem timerDisarm_strap (s : State) : (timerDisarm s).strap = s.strap := rfl
@[simp] theorem timerDisarm_params (s : State) : (timerDisarm s).params = s.params := rfl
@[simp] theorem timerDisarm_notifications (s : State) :
    (timerDisarm s).notifications = s.notifications := rfl
@[simp] theorem timerDisarm_responses (s : State) : (timerDisarm s).responses = s.responses := rfl
@[simp] theorem timerDisarm_inputs (s : State) : (timerDisarm s).inputs = s.inputs := rfl

@[simp] theorem setOut_out (b : BitVec 1) (s : State) : (setOut b s).out = b := rfl
@[simp] theorem setOut_catchCode (b : BitVec 1) (s : State) :
    (setOut b s).catchCode = s.catchCode := rfl
@[simp] theorem setOut_omode (b : BitVec 1) (s : State) : (setOut b s).omode = s.omode := rfl
@[simp] theorem setOut_even (b : BitVec 1) (s : State) : (setOut b s).even = s.even := rfl
@[simp] theorem setOut_instate (b : BitVec 1) (s : State) : (setOut b s).instate = s.instate := rfl
@[simp] theorem setOut_arm (b : BitVec 1) (s : State) : (setOut b s).arm = s.arm := rfl
@[simp] theorem setOut_pend (b : BitVec 1) (s : State) : (setOut b s).pend = s.pend := rfl
@[simp] theorem setOut_phase (b : BitVec 1) (s : State) : (setOut b s).phase = s.phase := rfl
@[simp] theorem setOut_tmr (b : BitVec 1) (s : State) : (setOut b s).tmr = s.tmr := rfl
@[simp] theorem setOut_raw (b : BitVec 1) (s : State) : (setOut b s).raw = s.raw := rfl
@[simp] theorem setOut_strap (b : BitVec 1) (s : State) : (setOut b s).strap = s.strap := rfl
@[simp] theorem setOut_params (b : BitVec 1) (s : State) : (setOut b s).params = s.params := rfl
@[simp] theorem setOut_notifications (b : BitVec 1) (s : State) :
    (setOut b s).notifications = s.notifications := rfl
@[simp] theorem setOut_responses (b : BitVec 1) (s : State) :
    (setOut b s).responses = s.responses := rfl
@[simp] theorem setOut_inputs (b : BitVec 1) (s : State) : (setOut b s).inputs = s.inputs := rfl

@[simp] theorem applyArming_out (c : Byte) (s : State) : (applyArming c s).out = s.out := rfl
@[simp] theorem applyArming_catchCode (c : Byte) (s : State) :
    (applyArming c s).catchCode = s.catchCode := rfl
@[simp] theorem applyArming_omode (c : Byte) (s : State) : (applyArming c s).omode = s.omode := rfl
@[simp] theorem applyArming_even (c : Byte) (s : State) : (applyArming c s).even = s.even := rfl
@[simp] theorem applyArming_instate (c : Byte) (s : State) :
    (applyArming c s).instate = s.instate := rfl
@[simp] theorem applyArming_arm (c : Byte) (s : State) : (applyArming c s).arm = armCfg s.params c := rfl
@[simp] theorem applyArming_pend (c : Byte) (s : State) :
    (applyArming c s).pend = pendingOf fun g =>
      groupArmed s.params (armCfg s.params c) g && pending s.pend g := rfl
@[simp] theorem applyArming_phase (c : Byte) (s : State) : (applyArming c s).phase = s.phase := rfl
@[simp] theorem applyArming_tmr (c : Byte) (s : State) : (applyArming c s).tmr = s.tmr := rfl
@[simp] theorem applyArming_raw (c : Byte) (s : State) : (applyArming c s).raw = s.raw := rfl
@[simp] theorem applyArming_strap (c : Byte) (s : State) : (applyArming c s).strap = s.strap := rfl
@[simp] theorem applyArming_params (c : Byte) (s : State) : (applyArming c s).params = s.params := rfl
@[simp] theorem applyArming_notifications (c : Byte) (s : State) :
    (applyArming c s).notifications = s.notifications := rfl
@[simp] theorem applyArming_responses (c : Byte) (s : State) :
    (applyArming c s).responses = s.responses := rfl
@[simp] theorem applyArming_inputs (c : Byte) (s : State) :
    (applyArming c s).inputs = s.inputs := rfl

@[simp] theorem clearPending_out (g : Group) (s : State) : (clearPending g s).out = s.out := rfl
@[simp] theorem clearPending_catchCode (g : Group) (s : State) :
    (clearPending g s).catchCode = s.catchCode := rfl
@[simp] theorem clearPending_omode (g : Group) (s : State) :
    (clearPending g s).omode = s.omode := rfl
@[simp] theorem clearPending_even (g : Group) (s : State) : (clearPending g s).even = s.even := rfl
@[simp] theorem clearPending_instate (g : Group) (s : State) :
    (clearPending g s).instate = s.instate := rfl
@[simp] theorem clearPending_arm (g : Group) (s : State) : (clearPending g s).arm = s.arm := rfl
@[simp] theorem clearPending_pend (g : Group) (s : State) :
    (clearPending g s).pend = setPending s.pend g false := rfl
@[simp] theorem clearPending_phase (g : Group) (s : State) :
    (clearPending g s).phase = s.phase := rfl
@[simp] theorem clearPending_tmr (g : Group) (s : State) : (clearPending g s).tmr = s.tmr := rfl
@[simp] theorem clearPending_raw (g : Group) (s : State) : (clearPending g s).raw = s.raw := rfl
@[simp] theorem clearPending_strap (g : Group) (s : State) :
    (clearPending g s).strap = s.strap := rfl
@[simp] theorem clearPending_params (g : Group) (s : State) :
    (clearPending g s).params = s.params := rfl
@[simp] theorem clearPending_notifications (g : Group) (s : State) :
    (clearPending g s).notifications = s.notifications := rfl
@[simp] theorem clearPending_responses (g : Group) (s : State) :
    (clearPending g s).responses = s.responses := rfl
@[simp] theorem clearPending_inputs (g : Group) (s : State) :
    (clearPending g s).inputs = s.inputs := rfl

end Sys2Proof.Machine
end

