-- ==== Sys2Proof/Laws/Ops.lean ====
section
/-! SUPPORT. One specification per shared operation: what it changes, what it leaves, and when it answers. -/

namespace Sys2Proof.Machine

/-! ## The mode codes -/

theorem mem_captureModes (m : CaptureMode) : m ∈ captureModes := by cases m <;> decide

theorem mem_outputModes (m : OutputMode) : m ∈ outputModes := by
  rcases m with _ | _ | _ | (_ | _ | _ | _ | _) <;> decide

theorem map_captureCode (p : Params) : captureModes.map (captureCode p) = p.catchCodes.toList := by
  refine List.ext_getElem (by simp [captureModes]) fun i h _ => ?_
  replace h : i < 9 := by simpa [captureModes] using h
  interval_cases i <;> simp [captureModes, captureCode]

theorem map_outputCode (p : Params) : outputModes.map (outputCode p) = p.omodeCodes.toList := by
  refine List.ext_getElem (by simp [outputModes]) fun i h _ => ?_
  replace h : i < 8 := by simpa [outputModes] using h
  interval_cases i <;> simp [outputModes, outputCode]

/-- A code names the one mode whose code it is (30_encoding.md R96). -/
theorem captureMode?_eq_some_iff {p : Params} {b : Byte} {m : CaptureMode} :
    captureMode? p b = some m ↔ b = captureCode p m :=
  find?_by_code mem_captureModes (map_captureCode p ▸ p.catchDistinct)

/-- A code names the one mode whose code it is (30_encoding.md R97). -/
theorem outputMode?_eq_some_iff {p : Params} {b : Byte} {m : OutputMode} :
    outputMode? p b = some m ↔ b = outputCode p m :=
  find?_by_code mem_outputModes (map_outputCode p ▸ p.omodeDistinct)

theorem captureCode_inj (p : Params) {m k : CaptureMode} : captureCode p m = captureCode p k ↔ m = k := by
  rw [← captureMode?_eq_some_iff, captureMode?_eq_some_iff.mpr rfl, Option.some.injEq]

theorem outputCode_inj (p : Params) {m k : OutputMode} : outputCode p m = outputCode p k ↔ m = k := by
  rw [← outputMode?_eq_some_iff, outputMode?_eq_some_iff.mpr rfl, Option.some.injEq]

@[simp] theorem captureMode?_captureCode (p : Params) (m : CaptureMode) :
    captureMode? p (captureCode p m) = some m := captureMode?_eq_some_iff.mpr rfl

@[simp] theorem outputMode?_outputCode (p : Params) (m : OutputMode) :
    outputMode? p (outputCode p m) = some m := outputMode?_eq_some_iff.mpr rfl

theorem captureMode?_eq_none_iff {p : Params} {b : Byte} :
    captureMode? p b = none ↔ ∀ m, b ≠ captureCode p m := by
  simp only [ne_eq, ← captureMode?_eq_some_iff]
  cases captureMode? p b <;> simp

theorem outputMode?_eq_none_iff {p : Params} {b : Byte} :
    outputMode? p b = none ↔ ∀ m, b ≠ outputCode p m := by
  simp only [ne_eq, ← outputMode?_eq_some_iff]
  cases outputMode? p b <;> simp

/-- The bytes of CATCH_CODE are those that name a mode. -/
theorem mem_catchCodes_iff {p : Params} {b : Byte} :
    b ∈ p.catchCodes.toList ↔ ∃ m, captureMode? p b = some m := by
  simp only [← map_captureCode, List.mem_map, captureMode?_eq_some_iff]
  exact exists_congr fun m => ⟨fun h => h.2.symm, fun h => ⟨mem_captureModes m, h.symm⟩⟩

/-- The bytes of OMODE_CODE are those that name a mode. -/
theorem mem_omodeCodes_iff {p : Params} {b : Byte} :
    b ∈ p.omodeCodes.toList ↔ ∃ m, outputMode? p b = some m := by
  simp only [← map_outputCode, List.mem_map, outputMode?_eq_some_iff]
  exact exists_congr fun m => ⟨fun h => h.2.symm, fun h => ⟨mem_outputModes m, h.symm⟩⟩

/-- The default capture codes are 0 to 8. -/
theorem captureMode?_default (b : Byte) :
    (captureMode? defaultParams b).isSome = decide (b.toNat ≤ 8) := by
  revert b
  decide

/-- The default output codes are 0 to 7. -/
theorem outputMode?_default (b : Byte) :
    (outputMode? defaultParams b).isSome = decide (b.toNat ≤ 7) := by
  revert b
  decide

/-- A poll divisor is positive (00_scope.md R20). -/
theorem pollDivisor_pos {p : Params} {m : CaptureMode} {d : Nat} (h : pollDivisor p m = some d) : 0 < d := by
  apply p.divisorsPositive
  cases m <;> simp [pollDivisor] at h <;> subst h <;> simp

/-- A tick keeps the counter within its width, for a counter of any width. -/
theorem nextPhase_lt (p : Params) (phase : Nat) : nextPhase p phase < 2 ^ p.phaseW :=
  Nat.mod_lt _ (Nat.two_pow_pos _)

/-! ## The lines and the snapshot -/

@[simp] theorem lowMask_getLsbD (n i : Nat) : (lowMask n).getLsbD i = decide (i < n ∧ i < 16) := by
  simp [lowMask, BitVec.getLsbD_ofNat, Nat.testBit_two_pow_sub_one, Bool.and_comm]

theorem and_lowMask_toNat (v : Lines) (n : Nat) (h : n ≤ 16) : (v &&& lowMask n).toNat = v.toNat % 2 ^ n := by
  have hp : 2 ^ n ≤ 2 ^ 16 := Nat.pow_le_pow_right (by decide) h
  rw [BitVec.toNat_and, lowMask, BitVec.toNat_ofNat, Nat.mod_eq_of_lt (by omega), Nat.and_two_pow_sub_one_eq_mod]

/-- Masking a word of that width changes nothing. -/
theorem and_lowMask_of_lt {v : Lines} {n : Nat} (hn : n ≤ 16) (h : v.toNat < 2 ^ n) : v &&& lowMask n = v :=
  BitVec.eq_of_toNat_eq (by rw [and_lowMask_toNat v n hn, Nat.mod_eq_of_lt h])

theorem nIn_le (p : Params) : p.nIn ≤ 16 := by have := p.linesFit; omega

theorem nStrap_le (p : Params) : p.nStrap ≤ 16 := by have := p.linesFit; omega

/-- The RAW of a pin word has no bit but those of the input lines. -/
theorem pvRaw_lt (p : Params) (pv : Lines) : (pvRaw p pv).toNat < 2 ^ p.nIn := by
  rw [pvRaw, inputMask, and_lowMask_toNat _ _ (nIn_le p)]
  exact Nat.mod_lt _ (Nat.two_pow_pos _)

/-- The STRAP of a pin word has no bit but those of the strap lines. -/
theorem pvStrap_lt (p : Params) (pv : Lines) : (pvStrap p pv).toNat < 2 ^ p.nStrap := by
  rw [pvStrap, and_lowMask_toNat _ _ (nStrap_le p)]
  exact Nat.mod_lt _ (Nat.two_pow_pos _)

@[simp] theorem mem_groupLines {p : Params} {g : Group} {i : Nat} :
    i ∈ groupLines p g ↔ i < p.nIn ∧ lineGroup i = g := by
  simp [groupLines]

theorem groupArmed_iff {p : Params} {arm : List EdgeArm} {g : Group} :
    groupArmed p arm g = true ↔ ∃ i < p.nIn, lineGroup i = g ∧ lineArm arm i ≠ .off := by
  simp only [groupArmed, List.any_eq_true, mem_groupLines, bne_iff_ne, and_assoc]

theorem groupEdge_iff {p : Params} {arm : List EdgeArm} {old new : Lines} {g : Group} :
    groupEdge p arm old new g = true ↔
      ∃ i < p.nIn, lineGroup i = g ∧ edgeMatch (lineArm arm i) (old.getLsbD i) (new.getLsbD i) = true := by
  simp only [groupEdge, List.any_eq_true, mem_groupLines, and_assoc]

/-- The lowest line of a group (00_scope.md R26). -/
def firstLine : Group → Nat
  | .g0 => 0
  | .g1 => 1
  | .g2 => 6

theorem lineGroup_firstLine (g : Group) : lineGroup (firstLine g) = g := by cases g <;> rfl

theorem firstLine_lineGroup_le (i : Nat) : firstLine (lineGroup i) ≤ i := by
  unfold lineGroup
  split
  · simp [firstLine]
  · split <;> simp only [firstLine] <;> omega

/-- One arming for every line arms each group that has a line (41_capture.md R162). -/
theorem groupArmed_replicate (p : Params) (x : EdgeArm) (g : Group) :
    groupArmed p (List.replicate p.nIn x) g = (decide (x ≠ .off) && decide (firstLine g < p.nIn)) := by
  rw [Bool.eq_iff_iff, groupArmed_iff]
  simp only [Bool.and_eq_true, decide_eq_true_eq]
  constructor
  · rintro ⟨i, hi, rfl, hx⟩
    exact ⟨by simpa [lineArm, hi] using hx, (firstLine_lineGroup_le i).trans_lt hi⟩
  · rintro ⟨hx, hg⟩
    exact ⟨_, hg, lineGroup_firstLine g, by simpa [lineArm, hg] using hx⟩

/-- Arming line 0 alone arms its group alone (41_capture.md R162). -/
theorem groupArmed_lineZero (p : Params) (x : EdgeArm) (g : Group) :
    groupArmed p (x :: List.replicate (p.nIn - 1) .off) g = (decide (x ≠ .off) && decide (g = .g0)) := by
  rw [Bool.eq_iff_iff, groupArmed_iff]
  simp only [Bool.and_eq_true, decide_eq_true_eq]
  constructor
  · rintro ⟨i, hi, rfl, hx⟩
    cases i with
    | zero => exact ⟨by simpa [lineArm] using hx, rfl⟩
    | succ i => simp [lineArm, show i < p.nIn - 1 by omega] at hx
  · rintro ⟨hx, rfl⟩
    exact ⟨0, p.nInPositive, rfl, by simpa [lineArm] using hx⟩

/-- A bit at no strap position is 0. -/
theorem strapBits_of_notMem (invert : Bool) (strap : Lines) {ps : List Nat} (j : Nat) {i : Nat} (h : i ∉ ps) :
    (strapBits invert strap ps j).getLsbD i = false := by
  induction ps generalizing j with
  | nil => simp [strapBits]
  | cons q rest ih =>
    obtain ⟨hq, hr⟩ := not_or.mp (List.mem_cons.not.mp h)
    rw [strapBits, BitVec.getLsbD_or, ih _ hr]
    split <;> simp [BitVec.getLsbD_shiftLeft, BitVec.getLsbD_one]
    omega

/-- The bit at the position of strap line `j + k` is that line's. -/
theorem strapBits_getElem (invert : Bool) (strap : Lines) {ps : List Nat} (hd : ps.Nodup) (j : Nat) {k q : Nat}
    (h : ps[k]? = some q) (hq : q < 16) :
    (strapBits invert strap ps j).getLsbD q = (strap.getLsbD (j + k) ^^ invert) := by
  induction ps generalizing j k with
  | nil => simp at h
  | cons r rest ih =>
    obtain ⟨hr, hd⟩ := List.nodup_cons.mp hd
    rw [strapBits, BitVec.getLsbD_or]
    cases k with
    | zero =>
      obtain rfl : r = q := by simpa using h
      rw [strapBits_of_notMem _ _ _ hr]
      split <;> simp_all
    | succ k =>
      have hk : rest[k]? = some q := by simpa using h
      have hne : q ≠ r := fun e => hr (e ▸ List.mem_of_getElem? hk)
      rw [ih hd (j + 1) hk, show j + 1 + k = j + (k + 1) by omega]
      split <;> simp [BitVec.getLsbD_shiftLeft, BitVec.getLsbD_one]
      omega

/-- The low N_IN bits of a snapshot are the NOT of the raw levels: the straps stand above them
(10_state.md R39). -/
theorem mkSnapshot_and_inputMask (p : Params) (raw strap : Lines) :
    mkSnapshot p raw strap &&& inputMask p = ~~~raw &&& inputMask p := by
  apply BitVec.eq_of_getLsbD_eq
  intro i hi
  rw [mkSnapshot, inputMask, BitVec.getLsbD_and, BitVec.getLsbD_or]
  by_cases h : i < p.nIn
  · rw [strapBits_of_notMem _ _ _ fun hm => absurd (p.strapAbove i hm).1 (by omega)]
    simp [h]
  · simp [h]

/-! ## Pending flags -/

@[simp] theorem pending_pendingOf (f : Group → Bool) (g : Group) : pending (pendingOf f) g = f g := by
  cases g <;> rfl

@[simp] theorem pending_setPending (p : Pending) (g k : Group) (v : Bool) :
    pending (setPending p g v) k = if k = g then v else pending p k := by
  simp [setPending]

theorem pending_ext {p q : Pending} (h : ∀ g, pending p g = pending q g) : p = q := by
  cases p; cases q
  have h0 := h .g0
  have h1 := h .g1
  have h2 := h .g2
  simp_all [pending]

@[simp] theorem pendingOf_pending (p : Pending) : pendingOf (pending p) = p := rfl

/-! ## The bank -/

theorem readRegister_eq (r : Register) (typ : Byte) (s : State) :
    readRegister r typ s = respond
      (if typ = elementTag s.params r then .ok (readHandler r s) else .fail .typeMismatch) s := by
  unfold readRegister failCommand
  split <;> rfl

/-- A WRITE fails and only answers, or its handler accepts and the answer is added to what it did. -/
theorem writeRegister_cases (r : Register) (typ count : Byte) (wdata : Half) (s : State) :
    (∃ reason, writeRegister r typ count wdata s = respond (.fail reason) s) ∨
    ∃ t, writeHandler r (payload wdata) s = .ok t ∧
      writeRegister r typ count wdata s = respond (.ok 0#16) t := by
  unfold writeRegister failCommand
  split
  · split
    · cases writeHandler r (payload wdata) s with
      | error reason => exact .inl ⟨reason, rfl⟩
      | ok t => exact .inr ⟨t, rfl, rfl⟩
    · exact .inl ⟨_, rfl⟩
  · exact .inl ⟨_, rfl⟩

/-- What an accepted WRITE did before its answer, register by register. -/
theorem writeHandler_cases {r : Register} {bytes : List Byte} {s t : State}
    (h : writeHandler r bytes s = .ok t) :
    let b := elementU8 bytes
    (r = .outputs ∧ t = setOut (b.extractLsb' 0 1) s) ∨
    (r = .inputCatchMode ∧ (∃ m, captureMode? s.params b = some m) ∧
      t = applyArming b { s with catchCode := b }) ∨
    (∃ m, r = .outputMode ∧ outputMode? s.params b = some m ∧ t = enterOutputMode b m s) ∨
    (r = .evntEnable ∧ t = { s with even := b &&& 0x01#8 }) := by
  cases r with
  | outputs => exact .inl ⟨rfl, by simpa [writeHandler, writeOutputs] using h.symm⟩
  | inputCatchMode =>
    simp only [writeHandler, writeInputCatchMode] at h
    split at h <;> simp_all
  | outputMode =>
    simp only [writeHandler, writeOutputMode] at h
    split at h <;> simp_all
  | evntEnable => exact .inr (.inr (.inr ⟨rfl, by simpa [writeHandler, writeEvntEnable] using h.symm⟩))
  | inputsState => simp [writeHandler, writeInputsState] at h
  | reserved0 => simp [writeHandler, writeReserved] at h
  | reserved1 => simp [writeHandler, writeReserved] at h
  | reserved2 => simp [writeHandler, writeReserved] at h
  | reserved3 => simp [writeHandler, writeReserved] at h

/-- A READ word runs the generic dispatch, whichever row it decodes to (40_register_bank.md R121). -/
theorem exec_decodeRead (rsv : BitVec 4) (a t n : Byte) (s : State) :
    exec (decodeRead s.params rsv a t n) s = .next (dispatchRead a t s) := by
  unfold decodeRead
  split
  · rfl
  all_goals
    rename_i hr
    simp only [dispatchRead, hr]
    rfl

/-- A WRITE word runs the generic dispatch, whichever row it decodes to (40_register_bank.md R122). -/
theorem exec_decodeWrite (rsv : BitVec 4) (a t n : Byte) (w : Half) (s : State) :
    exec (decodeWrite s.params rsv a t n w) s = .next (dispatchWrite a t n w s) := by
  unfold decodeWrite
  split
  · rfl
  all_goals
    rename_i hr
    simp only [dispatchWrite, hr]
    rfl

/-! ## The sample pipeline: the fields it leaves -/

@[simp] theorem outputAction_catchCode (c : Byte) (s : State) :
    (outputAction c s).catchCode = s.catchCode := by
  unfold outputAction actPulse; split <;> rfl

@[simp] theorem outputAction_omode (c : Byte) (s : State) :
    (outputAction c s).omode = s.omode := by
  unfold outputAction actPulse; split <;> rfl

@[simp] theorem outputAction_even (c : Byte) (s : State) :
    (outputAction c s).even = s.even := by
  unfold outputAction actPulse; split <;> rfl

@[simp] theorem outputAction_instate (c : Byte) (s : State) :
    (outputAction c s).instate = s.instate := by
  unfold outputAction actPulse; split <;> rfl

@[simp] theorem outputAction_arm (c : Byte) (s : State) :
    (outputAction c s).arm = s.arm := by
  unfold outputAction actPulse; split <;> rfl

@[simp] theorem outputAction_pend (c : Byte) (s : State) :
    (outputAction c s).pend = s.pend := by
  unfold outputAction actPulse; split <;> rfl

@[simp] theorem outputAction_phase (c : Byte) (s : State) :
    (outputAction c s).phase = s.phase := by
  unfold outputAction actPulse; split <;> rfl

@[simp] theorem outputAction_raw (c : Byte) (s : State) :
    (outputAction c s).raw = s.raw := by
  unfold outputAction actPulse; split <;> rfl

@[simp] theorem outputAction_strap (c : Byte) (s : State) :
    (outputAction c s).strap = s.strap := by
  unfold outputAction actPulse; split <;> rfl

@[simp] theorem outputAction_params (c : Byte) (s : State) :
    (outputAction c s).params = s.params := by
  unfold outputAction actPulse; split <;> rfl

@[simp] theorem outputAction_notifications (c : Byte) (s : State) :
    (outputAction c s).notifications = s.notifications := by
  unfold outputAction actPulse; split <;> rfl

@[simp] theorem outputAction_responses (c : Byte) (s : State) :
    (outputAction c s).responses = s.responses := by
  unfold outputAction actPulse; split <;> rfl

@[simp] theorem outputAction_inputs (c : Byte) (s : State) :
    (outputAction c s).inputs = s.inputs := by
  unfold outputAction actPulse; split <;> rfl

@[simp] theorem notifyIfEnabled_out (snap : Half) (s : State) :
    (notifyIfEnabled snap s).out = s.out := by
  unfold notifyIfEnabled; split <;> rfl

@[simp] theorem notifyIfEnabled_catchCode (snap : Half) (s : State) :
    (notifyIfEnabled snap s).catchCode = s.catchCode := by
  unfold notifyIfEnabled; split <;> rfl

@[simp] theorem notifyIfEnabled_omode (snap : Half) (s : State) :
    (notifyIfEnabled snap s).omode = s.omode := by
  unfold notifyIfEnabled; split <;> rfl

@[simp] theorem notifyIfEnabled_even (snap : Half) (s : State) :
    (notifyIfEnabled snap s).even = s.even := by
  unfold notifyIfEnabled; split <;> rfl

@[simp] theorem notifyIfEnabled_instate (snap : Half) (s : State) :
    (notifyIfEnabled snap s).instate = s.instate := by
  unfold notifyIfEnabled; split <;> rfl

@[simp] theorem notifyIfEnabled_arm (snap : Half) (s : State) :
    (notifyIfEnabled snap s).arm = s.arm := by
  unfold notifyIfEnabled; split <;> rfl

@[simp] theorem notifyIfEnabled_pend (snap : Half) (s : State) :
    (notifyIfEnabled snap s).pend = s.pend := by
  unfold notifyIfEnabled; split <;> rfl

@[simp] theorem notifyIfEnabled_phase (snap : Half) (s : State) :
    (notifyIfEnabled snap s).phase = s.phase := by
  unfold notifyIfEnabled; split <;> rfl

@[simp] theorem notifyIfEnabled_tmr (snap : Half) (s : State) :
    (notifyIfEnabled snap s).tmr = s.tmr := by
  unfold notifyIfEnabled; split <;> rfl

@[simp] theorem notifyIfEnabled_raw (snap : Half) (s : State) :
    (notifyIfEnabled snap s).raw = s.raw := by
  unfold notifyIfEnabled; split <;> rfl

@[simp] theorem notifyIfEnabled_strap (snap : Half) (s : State) :
    (notifyIfEnabled snap s).strap = s.strap := by
  unfold notifyIfEnabled; split <;> rfl

@[simp] theorem notifyIfEnabled_params (snap : Half) (s : State) :
    (notifyIfEnabled snap s).params = s.params := by
  unfold notifyIfEnabled; split <;> rfl

@[simp] theorem notifyIfEnabled_responses (snap : Half) (s : State) :
    (notifyIfEnabled snap s).responses = s.responses := by
  unfold notifyIfEnabled; split <;> rfl

@[simp] theorem notifyIfEnabled_inputs (snap : Half) (s : State) :
    (notifyIfEnabled snap s).inputs = s.inputs := by
  unfold notifyIfEnabled; split <;> rfl

@[simp] theorem takeSample_catchCode (s : State) :
    (takeSample s).catchCode = s.catchCode := by
  simp [takeSample]

@[simp] theorem takeSample_omode (s : State) :
    (takeSample s).omode = s.omode := by
  simp [takeSample]

@[simp] theorem takeSample_even (s : State) :
    (takeSample s).even = s.even := by
  simp [takeSample]

@[simp] theorem takeSample_arm (s : State) :
    (takeSample s).arm = s.arm := by
  simp [takeSample]

@[simp] theorem takeSample_pend (s : State) :
    (takeSample s).pend = s.pend := by
  simp [takeSample]

@[simp] theorem takeSample_phase (s : State) :
    (takeSample s).phase = s.phase := by
  simp [takeSample]

@[simp] theorem takeSample_raw (s : State) :
    (takeSample s).raw = s.raw := by
  simp [takeSample]

@[simp] theorem takeSample_strap (s : State) :
    (takeSample s).strap = s.strap := by
  simp [takeSample]

@[simp] theorem takeSample_params (s : State) :
    (takeSample s).params = s.params := by
  simp [takeSample]

@[simp] theorem takeSample_responses (s : State) :
    (takeSample s).responses = s.responses := by
  simp [takeSample]

@[simp] theorem takeSample_inputs (s : State) :
    (takeSample s).inputs = s.inputs := by
  simp [takeSample]

@[simp] theorem takeSample_instate (s : State) : (takeSample s).instate = mkSnapshot s.params s.raw s.strap := by
  simp [takeSample]

theorem notifyIfEnabled_notifications (snap : Half) (s : State) :
    (notifyIfEnabled snap s).notifications = if eventsEnabled s then
      s.notifications ++ [⟨registerAddr s.params .inputsState, snap⟩] else s.notifications := by
  unfold notifyIfEnabled
  split <;> rfl

theorem takeSample_notifications (s : State) :
    (takeSample s).notifications = if eventsEnabled s then
      s.notifications ++ [⟨registerAddr s.params .inputsState, mkSnapshot s.params s.raw s.strap⟩]
      else s.notifications := by
  simp [takeSample, notifyIfEnabled_notifications, eventsEnabled]

theorem takeSample_out (s : State) : (takeSample s).out = (outputAction s.omode s).out := by
  simp only [takeSample, notifyIfEnabled_out, outputAction]
  split <;> rfl

theorem takeSample_tmr (s : State) : (takeSample s).tmr = (outputAction s.omode s).tmr := by
  simp only [takeSample, notifyIfEnabled_tmr, outputAction]
  split <;> rfl

/-- A sample is taken, or it is discarded and nothing else happens. -/
theorem acceptSample_cases (filtered : Bool) (s : State) :
    acceptSample filtered s = takeSample s ∨
    (acceptSample filtered s = s ∧ filtered = true ∧
      ~~~s.raw &&& inputMask s.params = s.instate &&& inputMask s.params) := by
  unfold acceptSample
  split
  · rename_i h
    exact .inr ⟨rfl, h.1, mkSnapshot_and_inputMask s.params s.raw s.strap ▸ h.2⟩
  · exact .inl rfl

@[simp] theorem acceptSample_false (s : State) : acceptSample false s = takeSample s := by
  simp [acceptSample]

@[simp] theorem acceptSample_catchCode (filtered : Bool) (s : State) :
    (acceptSample filtered s).catchCode = s.catchCode := by
  unfold acceptSample; split <;> simp

@[simp] theorem acceptSample_omode (filtered : Bool) (s : State) :
    (acceptSample filtered s).omode = s.omode := by
  unfold acceptSample; split <;> simp

@[simp] theorem acceptSample_even (filtered : Bool) (s : State) :
    (acceptSample filtered s).even = s.even := by
  unfold acceptSample; split <;> simp

@[simp] theorem acceptSample_arm (filtered : Bool) (s : State) :
    (acceptSample filtered s).arm = s.arm := by
  unfold acceptSample; split <;> simp

@[simp] theorem acceptSample_pend (filtered : Bool) (s : State) :
    (acceptSample filtered s).pend = s.pend := by
  unfold acceptSample; split <;> simp

@[simp] theorem acceptSample_phase (filtered : Bool) (s : State) :
    (acceptSample filtered s).phase = s.phase := by
  unfold acceptSample; split <;> simp

@[simp] theorem acceptSample_raw (filtered : Bool) (s : State) :
    (acceptSample filtered s).raw = s.raw := by
  unfold acceptSample; split <;> simp

@[simp] theorem acceptSample_strap (filtered : Bool) (s : State) :
    (acceptSample filtered s).strap = s.strap := by
  unfold acceptSample; split <;> simp

@[simp] theorem acceptSample_params (filtered : Bool) (s : State) :
    (acceptSample filtered s).params = s.params := by
  unfold acceptSample; split <;> simp

@[simp] theorem acceptSample_responses (filtered : Bool) (s : State) :
    (acceptSample filtered s).responses = s.responses := by
  unfold acceptSample; split <;> simp

@[simp] theorem acceptSample_inputs (filtered : Bool) (s : State) :
    (acceptSample filtered s).inputs = s.inputs := by
  unfold acceptSample; split <;> simp

/-- The body of the line-0 handler runs the pipeline once or does nothing. -/
theorem edgeG0Body_cases (s : State) : edgeG0Body s = acceptSample true s ∨ edgeG0Body s = s := by
  unfold edgeG0Body
  split <;> first | exact .inl rfl | exact .inr rfl | (split <;> simp)

/-- The body of the other handlers runs the pipeline once or does nothing. -/
theorem edgeOtherBody_cases (s : State) :
    edgeOtherBody s = acceptSample true s ∨ edgeOtherBody s = s := by
  unfold edgeOtherBody
  split <;> simp

/-- A handler step answers exactly when its flag is set, and then with its body's result. -/
theorem runEdgeHandler_next {g : Group} {body : State → State} {s t : State} :
    runEdgeHandler g body s = .next t ↔ pending s.pend g = true ∧ t = body (clearPending g s) := by
  unfold runEdgeHandler
  split
  · rename_i hp
    exact ⟨fun h => ⟨hp, by cases h; rfl⟩, fun h => by rw [h.2]⟩
  · rename_i hp
    exact ⟨fun h => (by cases h), fun h => absurd h.1 hp⟩

/-- An edge handler step that answers took a sample, or changed its flag only. -/
theorem edgeStep_cases {g : Group} {s t : State} (h : exec (edgeInstr g) s = .next t) :
    pending s.pend g = true ∧ (t = takeSample (clearPending g s) ∨ t = clearPending g s) := by
  have key : ∀ u, acceptSample true u = takeSample u ∨ acceptSample true u = u := fun u =>
    (acceptSample_cases true u).imp id And.left
  cases g <;> simp only [edgeInstr, exec, execEdgeG0, execEdgeG1, execEdgeG2, runEdgeHandler_next] at h <;>
    refine ⟨h.1, ?_⟩ <;> rw [h.2]
  · obtain e | e := edgeG0Body_cases (clearPending .g0 s)
    · exact e ▸ key _
    · exact .inr e
  · obtain e | e := edgeOtherBody_cases (clearPending .g1 s)
    · exact e ▸ key _
    · exact .inr e
  · obtain e | e := edgeOtherBody_cases (clearPending .g2 s)
    · exact e ▸ key _
    · exact .inr e

/-- A base tick takes a sample when its cadence asks for one, and counts in every mode. -/
theorem execBaseTick_eq (s : State) : execBaseTick s =
    .next { (if tickSamples s then takeSample s else s) with phase := nextPhase s.params s.phase } := by
  unfold execBaseTick
  split <;> simp

/-! ## Entering an output mode: the fields it leaves -/

@[simp] theorem leavePulse_catchCode (s : State) :
    (leavePulse s).catchCode = s.catchCode := by
  unfold leavePulse; split <;> rfl

@[simp] theorem leavePulse_omode (s : State) :
    (leavePulse s).omode = s.omode := by
  unfold leavePulse; split <;> rfl

@[simp] theorem leavePulse_even (s : State) :
    (leavePulse s).even = s.even := by
  unfold leavePulse; split <;> rfl

@[simp] theorem leavePulse_instate (s : State) :
    (leavePulse s).instate = s.instate := by
  unfold leavePulse; split <;> rfl

@[simp] theorem leavePulse_arm (s : State) :
    (leavePulse s).arm = s.arm := by
  unfold leavePulse; split <;> rfl

@[simp] theorem leavePulse_pend (s : State) :
    (leavePulse s).pend = s.pend := by
  unfold leavePulse; split <;> rfl

@[simp] theorem leavePulse_phase (s : State) :
    (leavePulse s).phase = s.phase := by
  unfold leavePulse; split <;> rfl

@[simp] theorem leavePulse_raw (s : State) :
    (leavePulse s).raw = s.raw := by
  unfold leavePulse; split <;> rfl

@[simp] theorem leavePulse_strap (s : State) :
    (leavePulse s).strap = s.strap := by
  unfold leavePulse; split <;> rfl

@[simp] theorem leavePulse_params (s : State) :
    (leavePulse s).params = s.params := by
  unfold leavePulse; split <;> rfl

@[simp] theorem leavePulse_notifications (s : State) :
    (leavePulse s).notifications = s.notifications := by
  unfold leavePulse; split <;> rfl

@[simp] theorem leavePulse_responses (s : State) :
    (leavePulse s).responses = s.responses := by
  unfold leavePulse; split <;> rfl

@[simp] theorem leavePulse_inputs (s : State) :
    (leavePulse s).inputs = s.inputs := by
  unfold leavePulse; split <;> rfl

@[simp] theorem modeEntry_catchCode (m : OutputMode) (s : State) :
    (modeEntry m s).catchCode = s.catchCode := by
  cases m <;> rfl

@[simp] theorem modeEntry_omode (m : OutputMode) (s : State) :
    (modeEntry m s).omode = s.omode := by
  cases m <;> rfl

@[simp] theorem modeEntry_even (m : OutputMode) (s : State) :
    (modeEntry m s).even = s.even := by
  cases m <;> rfl

@[simp] theorem modeEntry_instate (m : OutputMode) (s : State) :
    (modeEntry m s).instate = s.instate := by
  cases m <;> rfl

@[simp] theorem modeEntry_arm (m : OutputMode) (s : State) :
    (modeEntry m s).arm = s.arm := by
  cases m <;> rfl

@[simp] theorem modeEntry_pend (m : OutputMode) (s : State) :
    (modeEntry m s).pend = s.pend := by
  cases m <;> rfl

@[simp] theorem modeEntry_phase (m : OutputMode) (s : State) :
    (modeEntry m s).phase = s.phase := by
  cases m <;> rfl

@[simp] theorem modeEntry_raw (m : OutputMode) (s : State) :
    (modeEntry m s).raw = s.raw := by
  cases m <;> rfl

@[simp] theorem modeEntry_strap (m : OutputMode) (s : State) :
    (modeEntry m s).strap = s.strap := by
  cases m <;> rfl

@[simp] theorem modeEntry_params (m : OutputMode) (s : State) :
    (modeEntry m s).params = s.params := by
  cases m <;> rfl

@[simp] theorem modeEntry_notifications (m : OutputMode) (s : State) :
    (modeEntry m s).notifications = s.notifications := by
  cases m <;> rfl

@[simp] theorem modeEntry_responses (m : OutputMode) (s : State) :
    (modeEntry m s).responses = s.responses := by
  cases m <;> rfl

@[simp] theorem modeEntry_inputs (m : OutputMode) (s : State) :
    (modeEntry m s).inputs = s.inputs := by
  cases m <;> rfl

@[simp] theorem enterOutputMode_catchCode (c : Byte) (m : OutputMode) (s : State) :
    (enterOutputMode c m s).catchCode = s.catchCode := by
  simp [enterOutputMode]

@[simp] theorem enterOutputMode_even (c : Byte) (m : OutputMode) (s : State) :
    (enterOutputMode c m s).even = s.even := by
  simp [enterOutputMode]

@[simp] theorem enterOutputMode_instate (c : Byte) (m : OutputMode) (s : State) :
    (enterOutputMode c m s).instate = s.instate := by
  simp [enterOutputMode]

@[simp] theorem enterOutputMode_arm (c : Byte) (m : OutputMode) (s : State) :
    (enterOutputMode c m s).arm = s.arm := by
  simp [enterOutputMode]

@[simp] theorem enterOutputMode_pend (c : Byte) (m : OutputMode) (s : State) :
    (enterOutputMode c m s).pend = s.pend := by
  simp [enterOutputMode]

@[simp] theorem enterOutputMode_phase (c : Byte) (m : OutputMode) (s : State) :
    (enterOutputMode c m s).phase = s.phase := by
  simp [enterOutputMode]

@[simp] theorem enterOutputMode_raw (c : Byte) (m : OutputMode) (s : State) :
    (enterOutputMode c m s).raw = s.raw := by
  simp [enterOutputMode]

@[simp] theorem enterOutputMode_strap (c : Byte) (m : OutputMode) (s : State) :
    (enterOutputMode c m s).strap = s.strap := by
  simp [enterOutputMode]

@[simp] theorem enterOutputMode_params (c : Byte) (m : OutputMode) (s : State) :
    (enterOutputMode c m s).params = s.params := by
  simp [enterOutputMode]

@[simp] theorem enterOutputMode_notifications (c : Byte) (m : OutputMode) (s : State) :
    (enterOutputMode c m s).notifications = s.notifications := by
  simp [enterOutputMode]

@[simp] theorem enterOutputMode_responses (c : Byte) (m : OutputMode) (s : State) :
    (enterOutputMode c m s).responses = s.responses := by
  simp [enterOutputMode]

@[simp] theorem enterOutputMode_inputs (c : Byte) (m : OutputMode) (s : State) :
    (enterOutputMode c m s).inputs = s.inputs := by
  simp [enterOutputMode]

@[simp] theorem enterOutputMode_omode (c : Byte) (m : OutputMode) (s : State) :
    (enterOutputMode c m s).omode = c := by
  simp [enterOutputMode]

@[simp] theorem leavePulse_tmr (s : State) : (leavePulse s).tmr = .idle := by
  unfold leavePulse
  split
  · rfl
  · cases h : s.tmr <;> simp_all [timerArmed]

/-- No countdown survives a mode write. -/
@[simp] theorem enterOutputMode_tmr (c : Byte) (m : OutputMode) (s : State) :
    (enterOutputMode c m s).tmr = .idle := by
  cases m <;> simp [enterOutputMode, modeEntry]

/-! ## What a step can do -/

/-- Everything an instruction that answers can have done. (An outside-window term whose address lies
inside the window is ill-formed and runs the generic dispatch; log 16.) -/
inductive Effect (i : Instr) (s t : State) : Prop where
  /-- A host command that only answered. -/
  | answered (r : Response) (host : i.kind.isHost = true) (next : t = respond r s)
      (why : i.kind = .read ∨ (∃ reason, r = .fail reason) ∨ i.wellFormed s.params = false)
  /-- A WRITE that its handler accepted. -/
  | wrote (r : Register) (bytes : List Byte) (u : State) (host : i.kind.isHost = true)
      (what : i.kind = .write r ∨ (i.kind = .outsideWindow ∧ i.wellFormed s.params = false))
      (handler : writeHandler r bytes s = .ok u) (next : t = respond (.ok 0#16) u)
  | reinit (kind : i.kind = .reinit) (next : t = respond (.ok 0#16) (reinitState s))
  | pins (pv : Lines) (what : i = .pins pv) (next : execPins pv s = .next t)
  /-- An edge handler that took a sample. -/
  | edgeSample (g : Group) (what : i = edgeInstr g) (kind : i.kind = .edge g)
      (set : pending s.pend g = true) (next : t = takeSample (clearPending g s))
  /-- An edge handler that cleared its flag only. -/
  | edgeOnly (g : Group) (what : i = edgeInstr g) (kind : i.kind = .edge g)
      (set : pending s.pend g = true) (next : t = clearPending g s)
  /-- A base tick that took a sample. -/
  | tickSample (kind : i.kind = .baseTick) (due : tickSamples s = true)
      (next : t = { takeSample s with phase := nextPhase s.params s.phase })
  /-- A base tick that counted only. -/
  | tickOnly (kind : i.kind = .baseTick) (due : tickSamples s = false)
      (next : t = { s with phase := nextPhase s.params s.phase })
  | second (kind : i.kind = .secondTick) (next : t = { s with phase := 0 })
  | fire (kind : i.kind = .pulseFire) (armed : timerArmed s.tmr = true)
      (next : t = timerDisarm (setOut 0#1 s))
  | safe (kind : i.kind = .forceSafe) (next : t = setOut 0#1 (timerDisarm s))

/-- A READ of a register only answers. -/
theorem effect_of_read {i : Instr} {s : State} (r : Register) (ty : Byte) (hk : i.kind = .read) :
    Effect i s (readRegister r ty s) :=
  .answered _ (by rw [hk]; rfl) (readRegister_eq r ty s) (.inl hk)

/-- A WRITE of a register fails and only answers, or its handler accepts. -/
theorem effect_of_write {i : Instr} {s : State} (r : Register) (ty n : Byte) (w : Half)
    (hk : i.kind = .write r ∨ (i.kind = .outsideWindow ∧ i.wellFormed s.params = false)) :
    Effect i s (writeRegister r ty n w s) := by
  have host : i.kind.isHost = true := by
    obtain h | ⟨h, -⟩ := hk <;> rw [h] <;> rfl
  obtain ⟨reason, e⟩ | ⟨u, hu, e⟩ := writeRegister_cases r ty n w s
  · exact .answered _ host e (.inr (.inl ⟨reason, rfl⟩))
  · exact .wrote r _ u host hk hu e

theorem effect_of_edge {s t : State} (g : Group) (h : exec (edgeInstr g) s = .next t) :
    Effect (edgeInstr g) s t := by
  have hk : (edgeInstr g).kind = .edge g := by cases g <;> rfl
  obtain ⟨hp, e | e⟩ := edgeStep_cases h
  · exact .edgeSample g rfl hk hp e
  · exact .edgeOnly g rfl hk hp e

theorem exec_effect {i : Instr} {s t : State} (h : exec i s = .next t) : Effect i s t := by
  cases i with
  | readOutsideWindow rsv a ty n =>
    simp only [exec, execReadOutsideWindow, dispatchRead] at h
    split at h <;> cases h
    · exact .answered _ rfl rfl (.inr (.inl ⟨_, rfl⟩))
    · rename_i r hr
      refine .answered _ rfl (readRegister_eq r ty s) (.inr (.inr ?_))
      simp [Instr.wellFormed, validAddr_of_registerAt hr]
  | writeOutsideWindow rsv a ty n w =>
    simp only [exec, execWriteOutsideWindow, dispatchWrite] at h
    split at h <;> cases h
    · exact .answered _ rfl rfl (.inr (.inl ⟨_, rfl⟩))
    · rename_i r hr
      exact effect_of_write r ty n w
        (.inr ⟨rfl, by simp [Instr.wellFormed, validAddr_of_registerAt hr]⟩)
  | reinit x =>
    cases h
    exact .reinit rfl rfl
  | reservedCmd0 | reservedCmd4to7 | reservedCmd8toF =>
    cases h
    exact .answered _ rfl rfl (.inr (.inl ⟨_, rfl⟩))
  | pins pv => exact .pins pv rfl h
  | edgeG0 => exact effect_of_edge .g0 h
  | edgeG1 => exact effect_of_edge .g1 h
  | edgeG2 => exact effect_of_edge .g2 h
  | baseTick =>
    rw [exec, execBaseTick_eq] at h
    cases h
    cases hd : tickSamples s
    · exact .tickOnly rfl hd (by simp)
    · exact .tickSample rfl hd (by simp)
  | secondTick =>
    cases h
    exact .second rfl rfl
  | pulseFire =>
    simp only [exec, execPulseFire] at h
    split at h <;> cases h
    rename_i ha
    exact .fire rfl ha rfl
  | forceSafe =>
    cases h
    exact .safe rfl rfl
  | writeInputsState | writeOutputs | writeInputCatchMode | writeOutputMode | writeReserved0
  | writeReserved1 | writeReserved2 | writeReserved3 | writeEvntEnable =>
    cases h
    exact effect_of_write _ _ _ _ (.inl rfl)
  | _ =>
    cases h
    exact effect_of_read _ _ rfl

/-! ## The step -/

theorem takeInput_cons {s : State} {f : PortInput} {rest : List PortInput} (h : s.inputs = f :: rest) :
    takeInput s = some (f, { s with inputs := rest }) := by
  simp [takeInput, h]

/-- A step that answers ran the instruction that the next chosen input decodes to. -/
theorem step_next {s t : State} (h : step s = .next t) : ∃ f rest i,
    s.inputs = f :: rest ∧ decode s.params f = .ok i ∧ exec i { s with inputs := rest } = .next t := by
  unfold step takeInput at h
  split at h
  · cases h
  · rename_i f u e
    split at e
    · cases e
    · rename_i f' rest hi
      cases e
      split at h
      · rename_i i hd
        exact ⟨f, rest, i, hi, hd, h⟩
      · cases h
      · cases h

/-! ## Delivery of notifications -/

/-- All of them may arrive. -/
theorem mayReceive_all (s : State) : mayReceive s.notifications s := List.Sublist.refl _

/-- None of them may arrive. -/
theorem mayReceive_none (s : State) : mayReceive [] s := List.nil_sublist _

/-- An emitted notification takes nothing from what may already have arrived. -/
theorem mayReceive_emitNotify {got : List Notification} {s : State} (a : Byte) (v : Half)
    (h : mayReceive got s) : mayReceive got (emitNotify a v s) :=
  h.trans (List.sublist_append_left _ _)

end Sys2Proof.Machine
end

