-- ==== Sys2Proof/Laws/PerInstr.lean ====
section
/-! SUPPORT. The family OpcodeRow: each instruction's encoded word has the fixed fields of its row of
spec/opcode_table.json. -/

namespace Sys2Proof.Laws.OpcodeRow

/-- The words of an input as one number, bit 0 the least significant bit of the first word: the bits
the opcode table numbers. -/
def portWord : PortInput → Nat
  | .command hcw _ => hcw
  | .event ev _ => ev

/-- One fixed field of a row: bits hi:lo hold `value`. -/
structure Fixed where
  hi : Nat
  lo : Nat
  value : Nat

/-- A word has the field's value. -/
def Fixed.holds (f : Fixed) (w : Nat) : Prop := w / 2 ^ f.lo % 2 ^ (f.hi + 1 - f.lo) = f.value

/-- The fixed fields of each row, copied from the table. -/
def fixedOf : Instr → List Fixed
  | .readInputsState .. => [⟨23, 16, 32⟩, ⟨31, 28, 1⟩]
  | .writeInputsState .. => [⟨23, 16, 32⟩, ⟨31, 28, 2⟩]
  | .readOutputs .. => [⟨23, 16, 33⟩, ⟨31, 28, 1⟩]
  | .writeOutputs .. => [⟨23, 16, 33⟩, ⟨31, 28, 2⟩]
  | .readInputCatchMode .. => [⟨23, 16, 34⟩, ⟨31, 28, 1⟩]
  | .writeInputCatchMode .. => [⟨23, 16, 34⟩, ⟨31, 28, 2⟩]
  | .readOutputMode .. => [⟨23, 16, 35⟩, ⟨31, 28, 1⟩]
  | .writeOutputMode .. => [⟨23, 16, 35⟩, ⟨31, 28, 2⟩]
  | .readReserved0 .. => [⟨23, 16, 36⟩, ⟨31, 28, 1⟩]
  | .writeReserved0 .. => [⟨23, 16, 36⟩, ⟨31, 28, 2⟩]
  | .readReserved1 .. => [⟨23, 16, 37⟩, ⟨31, 28, 1⟩]
  | .writeReserved1 .. => [⟨23, 16, 37⟩, ⟨31, 28, 2⟩]
  | .readReserved2 .. => [⟨23, 16, 38⟩, ⟨31, 28, 1⟩]
  | .writeReserved2 .. => [⟨23, 16, 38⟩, ⟨31, 28, 2⟩]
  | .readReserved3 .. => [⟨23, 16, 39⟩, ⟨31, 28, 1⟩]
  | .writeReserved3 .. => [⟨23, 16, 39⟩, ⟨31, 28, 2⟩]
  | .readEvntEnable .. => [⟨23, 16, 40⟩, ⟨31, 28, 1⟩]
  | .writeEvntEnable .. => [⟨23, 16, 40⟩, ⟨31, 28, 2⟩]
  | .readOutsideWindow .. => [⟨31, 28, 1⟩]
  | .writeOutsideWindow .. => [⟨31, 28, 2⟩]
  | .reinit _ => [⟨31, 28, 3⟩]
  | .reservedCmd0 _ => [⟨31, 28, 0⟩]
  | .reservedCmd4to7 _ _ => [⟨31, 30, 1⟩]
  | .reservedCmd8toF _ _ => [⟨31, 31, 1⟩]
  | .pins _ => [⟨3, 0, 1⟩]
  | .edgeG0 => [⟨3, 0, 2⟩]
  | .edgeG1 => [⟨3, 0, 3⟩]
  | .edgeG2 => [⟨3, 0, 4⟩]
  | .baseTick => [⟨3, 0, 5⟩]
  | .secondTick => [⟨3, 0, 6⟩]
  | .pulseFire => [⟨3, 0, 7⟩]
  | .forceSafe => [⟨3, 0, 8⟩]

/-- The encoded word meets its row. The table writes its rows for the default window. -/
def Statement (i : Instr) : Prop :=
  ∀ f ∈ fixedOf i, f.holds (portWord (encode Machine.defaultParams i))

/-- A word of five fields, read back by division: ADDR and CMD. -/
theorem hcw_fields (cmd rsv : BitVec 4) (addr typ count : Byte) :
    (hcw cmd rsv addr typ count).toNat / 65536 % 256 = addr.toNat ∧
    (hcw cmd rsv addr typ count).toNat / 268435456 % 16 = cmd.toNat := by
  have ha := congrArg BitVec.toNat (hcwAddr_hcw cmd rsv addr typ count)
  have hc := congrArg BitVec.toNat (hcwCmd_hcw cmd rsv addr typ count)
  simp only [hcwAddr, hcwCmd, BitVec.extractLsb'_toNat, Nat.shiftRight_eq_div_pow] at ha hc
  exact ⟨ha, hc⟩

/-- A word of CMD and the rest, read back by division. -/
theorem hcwOfRest_cmd (cmd : BitVec 4) (rest : BitVec 28) :
    (hcwOfRest cmd rest).toNat / 268435456 = cmd.toNat := by
  have hc := congrArg BitVec.toNat (hcwCmd_hcwOfRest cmd rest)
  simp only [hcwCmd, BitVec.extractLsb'_toNat, Nat.shiftRight_eq_div_pow] at hc
  have := (hcwOfRest cmd rest).isLt
  omega

/-- A READ of a register meets its row. -/
theorem read_row (r : Register) (rsv : BitVec 4) (typ count : Byte) :
    ∀ f ∈ [Fixed.mk 23 16 (Machine.registerAddr Machine.defaultParams r).toNat, ⟨31, 28, 1⟩],
      f.holds (portWord (encodeRead Machine.defaultParams r rsv typ count)) := by
  have h := hcw_fields 1#4 rsv (Machine.registerAddr Machine.defaultParams r) typ count
  simpa [Fixed.holds, portWord, encodeRead] using h

/-- A WRITE of a register meets its row. -/
theorem write_row (r : Register) (rsv : BitVec 4) (typ count : Byte) (wdata : Half) :
    ∀ f ∈ [Fixed.mk 23 16 (Machine.registerAddr Machine.defaultParams r).toNat, ⟨31, 28, 2⟩],
      f.holds (portWord (encodeWrite Machine.defaultParams r rsv typ count wdata)) := by
  have h := hcw_fields 2#4 rsv (Machine.registerAddr Machine.defaultParams r) typ count
  simpa [Fixed.holds, portWord, encodeWrite] using h

theorem readInputsState (rsv : BitVec 4) (typ count : Byte) :
    Statement (.readInputsState rsv typ count) := read_row .inputsState rsv typ count

theorem writeInputsState (rsv : BitVec 4) (typ count : Byte) (wdata : Half) :
    Statement (.writeInputsState rsv typ count wdata) := write_row .inputsState rsv typ count wdata

theorem readOutputs (rsv : BitVec 4) (typ count : Byte) :
    Statement (.readOutputs rsv typ count) := read_row .outputs rsv typ count

theorem writeOutputs (rsv : BitVec 4) (typ count : Byte) (wdata : Half) :
    Statement (.writeOutputs rsv typ count wdata) := write_row .outputs rsv typ count wdata

theorem readInputCatchMode (rsv : BitVec 4) (typ count : Byte) :
    Statement (.readInputCatchMode rsv typ count) := read_row .inputCatchMode rsv typ count

theorem writeInputCatchMode (rsv : BitVec 4) (typ count : Byte) (wdata : Half) :
    Statement (.writeInputCatchMode rsv typ count wdata) := write_row .inputCatchMode rsv typ count wdata

theorem readOutputMode (rsv : BitVec 4) (typ count : Byte) :
    Statement (.readOutputMode rsv typ count) := read_row .outputMode rsv typ count

theorem writeOutputMode (rsv : BitVec 4) (typ count : Byte) (wdata : Half) :
    Statement (.writeOutputMode rsv typ count wdata) := write_row .outputMode rsv typ count wdata

theorem readReserved0 (rsv : BitVec 4) (typ count : Byte) :
    Statement (.readReserved0 rsv typ count) := read_row .reserved0 rsv typ count

theorem writeReserved0 (rsv : BitVec 4) (typ count : Byte) (wdata : Half) :
    Statement (.writeReserved0 rsv typ count wdata) := write_row .reserved0 rsv typ count wdata

theorem readReserved1 (rsv : BitVec 4) (typ count : Byte) :
    Statement (.readReserved1 rsv typ count) := read_row .reserved1 rsv typ count

theorem writeReserved1 (rsv : BitVec 4) (typ count : Byte) (wdata : Half) :
    Statement (.writeReserved1 rsv typ count wdata) := write_row .reserved1 rsv typ count wdata

theorem readReserved2 (rsv : BitVec 4) (typ count : Byte) :
    Statement (.readReserved2 rsv typ count) := read_row .reserved2 rsv typ count

theorem writeReserved2 (rsv : BitVec 4) (typ count : Byte) (wdata : Half) :
    Statement (.writeReserved2 rsv typ count wdata) := write_row .reserved2 rsv typ count wdata

theorem readReserved3 (rsv : BitVec 4) (typ count : Byte) :
    Statement (.readReserved3 rsv typ count) := read_row .reserved3 rsv typ count

theorem writeReserved3 (rsv : BitVec 4) (typ count : Byte) (wdata : Half) :
    Statement (.writeReserved3 rsv typ count wdata) := write_row .reserved3 rsv typ count wdata

theorem readEvntEnable (rsv : BitVec 4) (typ count : Byte) :
    Statement (.readEvntEnable rsv typ count) := read_row .evntEnable rsv typ count

theorem writeEvntEnable (rsv : BitVec 4) (typ count : Byte) (wdata : Half) :
    Statement (.writeEvntEnable rsv typ count wdata) := write_row .evntEnable rsv typ count wdata

theorem readOutsideWindow (rsv : BitVec 4) (addr typ count : Byte) :
    Statement (.readOutsideWindow rsv addr typ count) := by
  simpa [Statement, fixedOf, Fixed.holds, portWord, encode] using
    (hcw_fields 1#4 rsv addr typ count).2

theorem writeOutsideWindow (rsv : BitVec 4) (addr typ count : Byte) (wdata : Half) :
    Statement (.writeOutsideWindow rsv addr typ count wdata) := by
  simpa [Statement, fixedOf, Fixed.holds, portWord, encode] using
    (hcw_fields 2#4 rsv addr typ count).2

theorem reinit (ignored : BitVec 28) : Statement (.reinit ignored) := by
  simp [Statement, fixedOf, Fixed.holds, portWord, encode, hcwOfRest_cmd]

theorem reservedCmd0 (rest : BitVec 28) : Statement (.reservedCmd0 rest) := by
  simp [Statement, fixedOf, Fixed.holds, portWord, encode, hcwOfRest_cmd]

theorem reservedCmd4to7 (low : BitVec 2) (rest : BitVec 28) :
    Statement (.reservedCmd4to7 low rest) := by
  have h := hcwOfRest_cmd (1#2 ++ low) rest
  have e : ∀ l : BitVec 2, (1#2 ++ l).toNat / 4 % 4 = 1 := by decide
  have e := e low
  simp [Statement, fixedOf, Fixed.holds, portWord, encode]
  omega

theorem reservedCmd8toF (low : BitVec 3) (rest : BitVec 28) :
    Statement (.reservedCmd8toF low rest) := by
  have h := hcwOfRest_cmd (1#1 ++ low) rest
  have e : ∀ l : BitVec 3, (1#1 ++ l).toNat / 8 % 2 = 1 := by decide
  have e := e low
  simp [Statement, fixedOf, Fixed.holds, portWord, encode]
  omega

theorem pins (pv : Lines) : Statement (.pins pv) := by
  simp [Statement, fixedOf, Fixed.holds, portWord, encode]

theorem edgeG0 : Statement .edgeG0 := by
  simp [Statement, fixedOf, Fixed.holds, portWord, encode]

theorem edgeG1 : Statement .edgeG1 := by
  simp [Statement, fixedOf, Fixed.holds, portWord, encode]

theorem edgeG2 : Statement .edgeG2 := by
  simp [Statement, fixedOf, Fixed.holds, portWord, encode]

theorem baseTick : Statement .baseTick := by
  simp [Statement, fixedOf, Fixed.holds, portWord, encode]

theorem secondTick : Statement .secondTick := by
  simp [Statement, fixedOf, Fixed.holds, portWord, encode]

theorem pulseFire : Statement .pulseFire := by
  simp [Statement, fixedOf, Fixed.holds, portWord, encode]

theorem forceSafe : Statement .forceSafe := by
  simp [Statement, fixedOf, Fixed.holds, portWord, encode]

end Sys2Proof.Laws.OpcodeRow
end

