-- ==== Sys2Proof/Tests/Slice0.lean ====
section
/-! SUPPORT. The model's own tests. Expected values come from spec/95_test_vectors.md (the ids V and W)
and from the rules named; a witness shows that a statement's hypotheses can be met together. -/

namespace Sys2Proof.Tests

open Sys2Proof.Machine Sys2Proof.Spec

/-! ## Helpers -/

/-- The parameters of the vectors: the defaults with STRAP_POS = (9, 10) and STRAP_INVERT = false. -/
def vectorParams : Params :=
  { defaultParams with
    strapPos := [9, 10]
    strapInvert := false
    strapCount := rfl
    strapDistinct := by decide
    strapAbove := by decide }

/-- P0, the start state of the vectors: power-on with INSTATE_INIT = 0 and RAW = 0x1FF. -/
def p0 : State where
  params := vectorParams
  out := 0#1
  catchCode := 1#8
  omode := 1#8
  even := 0x01#8
  instate := 0#16
  arm := List.replicate 9 .both
  pend := ⟨false, false, false⟩
  phase := 0
  tmr := .idle
  raw := 0x1FF#16
  strap := 0#16
  notifications := []
  responses := []
  inputs := []

/-- Parameters of which none has its default: twelve inputs, three straps, and the registers in reverse order
from 0x80. -/
def otherParams : Params where
  nIn := 12
  nStrap := 3
  strapPos := [15, 12, 13]
  strapInvert := true
  base := 0x80
  offsets := #v[8, 7, 6, 5, 4, 3, 2, 1, 0]
  typeU8 := 0x11#8
  typeU16 := 0x12#8
  catchCodes := #v[0x30#8, 0x31#8, 0x32#8, 0x33#8, 0x34#8, 0x35#8, 0x36#8, 0x37#8, 0x38#8]
  omodeCodes := #v[0x40#8, 0x41#8, 0x42#8, 0x43#8, 0x44#8, 0x45#8, 0x46#8, 0x47#8]
  baseHz := 1000
  divisors := #v[10, 4, 2, 3, 5]
  pulseWidths := #v[100, 200, 300, 400, 600]
  phaseW := 4
  nInPositive := by decide
  linesFit := by decide
  strapCount := rfl
  strapDistinct := by decide
  strapAbove := by decide
  offsetsDistinct := by decide
  tagsDistinct := by decide
  catchDistinct := by decide
  omodeDistinct := by decide
  divisorsPositive := by decide

/-- P0 with those parameters, in Poll100Hz and Pulse1ms. -/
def otherPoll : State :=
  { p0 with
    params := otherParams
    catchCode := 0x34#8
    omode := 0x45#8
    arm := arming otherParams 0x34#8
    raw := 0xFFF#16 }

/-- P0 with those parameters, under OnAnyChange. -/
def otherEdge : State :=
  { otherPoll with catchCode := 0x31#8, arm := arming otherParams 0x31#8 }

/-- P0 with STRAP_POS and STRAP_INVERT left open. -/
def p0default : State := { p0 with params := defaultParams }

/-- P0 with group 0 pending and input 0 active. -/
def p0edge : State := { p0 with raw := 0x1FE#16, pend := ⟨true, false, false⟩ }

/-- P0 in Pulse1ms with a pulse pending. -/
def p0pulse : State := { p0 with omode := 5#8, out := 1#1, tmr := .armed 1000 }

/-- P0 in a capture mode with its arming. -/
def p0catch (c : Byte) : State := { p0 with catchCode := c, arm := arming vectorParams c }

/-- One field of the next state, `none` where there is none. -/
def peek {α : Type} (f : State → α) (i : Instr) (s : State) : Option α :=
  match exec i s with
  | .next t => some (f t)
  | .fault _ => none
  | .refused _ => none

/-- The fault of an instruction, if it stops with one. -/
def faultOf (i : Instr) (s : State) : Option Fault :=
  match exec i s with
  | .next _ => none
  | .fault r => some r
  | .refused _ => none

/-- What a command word does to one field. -/
def peekWord {α : Type} (f : State → α) (h : CommandWord) (w : Half) (s : State) : Option α :=
  peek f (decodeCommand s.params h w) s

/-- OUT and TMR. -/
def outTmr (s : State) : BitVec 1 × Timer := (s.out, s.tmr)

/-! ## WellFormed: an ill-formed term for each check, and the edges of the window (R71, R141) -/

theorem test_wf_read_inside_refused :
    (Instr.readOutsideWindow 0#4 0x20#8 1#8 1#8).wellFormed defaultParams = false ∧
    (Instr.readOutsideWindow 0#4 0x28#8 1#8 1#8).wellFormed defaultParams = false := by decide

theorem test_wf_write_inside_refused :
    (Instr.writeOutsideWindow 0#4 0x20#8 1#8 1#8 0#16).wellFormed defaultParams = false ∧
    (Instr.writeOutsideWindow 0#4 0x28#8 1#8 1#8 0#16).wellFormed defaultParams = false := by decide

/-- R101: a pin word has 11 bits by default, and 15 with twelve inputs and three straps. -/
theorem test_wf_pin_word :
    (Instr.pins 0x800#16).wellFormed defaultParams = false ∧ (Instr.pins 0x7FF#16).WellFormed defaultParams ∧
    (Instr.pins 0x8000#16).wellFormed otherParams = false ∧ (Instr.pins 0x7FFF#16).WellFormed otherParams := by
  decide

theorem test_wf_outside_accepted :
    (Instr.readOutsideWindow 0#4 0x1F#8 1#8 1#8).WellFormed defaultParams ∧
    (Instr.writeOutsideWindow 0#4 0x29#8 1#8 1#8 0#16).WellFormed defaultParams := by decide

/-! ## Decode: words written out from the table's encoding column -/

theorem test_decode_reads :
    decodeTableWord 32 0b00010000001000000000001000000000 = some (.readInputsState 0#4 2#8 0#8) ∧
    decodeTableWord 32 0b00010000001000010000000100000000 = some (.readOutputs 0#4 1#8 0#8) ∧
    decodeTableWord 32 0b00010000001000100000000100000000 = some (.readInputCatchMode 0#4 1#8 0#8) ∧
    decodeTableWord 32 0b00010000001000110000000100000000 = some (.readOutputMode 0#4 1#8 0#8) ∧
    decodeTableWord 32 0b00010000001001000000000100000000 = some (.readReserved0 0#4 1#8 0#8) ∧
    decodeTableWord 32 0b00010000001001010000000100000000 = some (.readReserved1 0#4 1#8 0#8) ∧
    decodeTableWord 32 0b00010000001001100000000100000000 = some (.readReserved2 0#4 1#8 0#8) ∧
    decodeTableWord 32 0b00010000001001110000000100000000 = some (.readReserved3 0#4 1#8 0#8) ∧
    decodeTableWord 32 0b00011010001010000000000100110111 = some (.readEvntEnable 0xA#4 1#8 0x37#8) := by
  decide

theorem test_decode_writes :
    decode defaultParams (.command 0b00100000001000000000001000000001 0x01FF) =
      .ok (.writeInputsState 0#4 2#8 1#8 0x01FF#16) ∧
    decode defaultParams (.command 0b00100000001000010000000100000001 0xFF01) =
      .ok (.writeOutputs 0#4 1#8 1#8 0xFF01#16) ∧
    decode defaultParams (.command 0b00100000001000100000000100000001 4) =
      .ok (.writeInputCatchMode 0#4 1#8 1#8 4#16) ∧
    decode defaultParams (.command 0b00100000001000110000000100000001 5) =
      .ok (.writeOutputMode 0#4 1#8 1#8 5#16) ∧
    decode defaultParams (.command 0b00100000001001000000000100000001 0) =
      .ok (.writeReserved0 0#4 1#8 1#8 0#16) ∧
    decode defaultParams (.command 0b00100000001001010000000100000001 1) =
      .ok (.writeReserved1 0#4 1#8 1#8 1#16) ∧
    decode defaultParams (.command 0b00100000001001100000000100000001 0xFF) =
      .ok (.writeReserved2 0#4 1#8 1#8 0xFF#16) ∧
    decode defaultParams (.command 0b00100000001001110000001000000001 0) =
      .ok (.writeReserved3 0#4 2#8 1#8 0#16) ∧
    decode defaultParams (.command 0b00101111001010000000000100000001 1) =
      .ok (.writeEvntEnable 0xF#4 1#8 1#8 1#16) := ⟨rfl, rfl, rfl, rfl, rfl, rfl, rfl, rfl, rfl⟩

/-- The words of W1 and the neighbours of the window. -/
theorem test_decode_outside :
    decodeTableWord 32 0x101F0100 = some (.readOutsideWindow 0#4 0x1F#8 1#8 0#8) ∧
    decodeTableWord 32 0x10290100 = some (.readOutsideWindow 0#4 0x29#8 1#8 0#8) ∧
    decode defaultParams (.command 0x20FF0201 0xFFFF) = .ok (.writeOutsideWindow 0#4 0xFF#8 2#8 1#8 0xFFFF#16) :=
  ⟨rfl, rfl, rfl⟩

/-- V50 to V52, V55 and every reserved command code. -/
theorem test_decode_commands :
    decodeTableWord 32 0x00000000 = some (.reservedCmd0 0#28) ∧
    decodeTableWord 32 0x40230101 = some (.reservedCmd4to7 0#2 0x0230101#28) ∧
    decodeTableWord 32 0x7FFFFFFF = some (.reservedCmd4to7 3#2 0xFFFFFFF#28) ∧
    decodeTableWord 32 0x80000000 = some (.reservedCmd8toF 0#3 0#28) ∧
    decodeTableWord 32 0xF0210101 = some (.reservedCmd8toF 7#3 0x0210101#28) ∧
    decode defaultParams (.command 0x3F123456 0xBEEF) = .ok (.reinit 0xF123456#28) := ⟨rfl, rfl, rfl, rfl, rfl, rfl⟩

theorem test_decode_events :
    decodeTableWord 8 0b0001 = some (.pins 0#16) ∧
    decode defaultParams (.event 1 0b11111111110) = .ok (.pins 0x7FE#16) ∧
    decodeTableWord 8 0b0010 = some .edgeG0 ∧ decodeTableWord 8 0b0011 = some .edgeG1 ∧
    decodeTableWord 8 0b0100 = some .edgeG2 ∧ decodeTableWord 8 0b0101 = some .baseTick ∧
    decodeTableWord 8 0b0110 = some .secondTick ∧ decodeTableWord 8 0b0111 = some .pulseFire ∧
    decodeTableWord 8 0b1000 = some .forceSafe := ⟨rfl, rfl, rfl, rfl, rfl, rfl, rfl, rfl, rfl⟩

/-- R100: 0x0 and 0x9 to 0xF name no step; numbers wider than the port are refused. -/
theorem test_decode_rejects :
    decode defaultParams (.event 0 0) = .error .unnamedEventLabel ∧
    decode defaultParams (.event 9 0) = .error .unnamedEventLabel ∧
    decode defaultParams (.event 15 2047) = .error .unnamedEventLabel ∧
    decode defaultParams (.event 16 0) = .error .outsidePortFormat ∧
    decode defaultParams (.event 1 2048) = .error .outsidePortFormat ∧
    decode defaultParams (.command (2 ^ 32) 0) = .error .outsidePortFormat ∧
    decode defaultParams (.command 0 (2 ^ 16)) = .error .outsidePortFormat := ⟨rfl, rfl, rfl, rfl, rfl, rfl, rfl⟩

/-- R105's arithmetic: `WRITE OUTPUT_MODE, U8, 1, 5` is 0x20230101 with 5. -/
theorem test_encode_words :
    encode defaultParams (.writeOutputMode 0#4 1#8 1#8 5#16) = .command 0x20230101 5 ∧
    encode defaultParams (.readInputsState 0#4 2#8 0#8) = .command 0x10200200 0 ∧
    encode defaultParams (.reinit 0#28) = .command 0x30000000 0 ∧
    encode defaultParams (.reservedCmd8toF 7#3 0x0210101#28) = .command 0xF0210101 0 := by decide

/-! ## Tables -/

/-- R106: the pseudo-instructions are words of the table (their HCW in programs A to D). -/
theorem test_pseudo_instructions :
    setCatch defaultParams .poll100Hz = .writeInputCatchMode 0#4 1#8 1#8 4#16 ∧
    setOmode defaultParams (.pulse .ms1) = .writeOutputMode 0#4 1#8 1#8 5#16 ∧
    setOutputs defaultParams 0xFF#16 = .writeOutputs 0#4 1#8 1#8 0xFF#16 ∧
    setEvents defaultParams false = .writeEvntEnable 0#4 1#8 1#8 0#16 ∧
    rd16 defaultParams .inputsState = .readInputsState 0#4 2#8 0#8 ∧
    pinTo 5 false p0 = .pins 0x1DF#16 ∧ pinTo 0 true p0edge = .pins 0x1FF#16 ∧
    asmReinit = .reinit 0#28 := by decide

/-- W9: divisor = base/target. -/
theorem test_divisors :
    [CaptureMode.poll100Hz, .poll250Hz, .poll500Hz, .poll1000Hz, .poll2000Hz].map (pollDivisor defaultParams) =
      [some 20, some 8, some 4, some 2, some 1] ∧ pollDivisor defaultParams .onAnyChange = none := by decide

/-- R14: the default is 32. R71: "the model requires `BASE_ADDR <= 247`", and at 247 the window ends at
255 with no wrap-around. -/
theorem test_base_addr :
    State.reset.params.base = 32 ∧ registerAddr { defaultParams with base := 247 } .evntEnable = 0xFF#8 ∧
    validAddr { defaultParams with base := 247 } 0xFF#8 = true ∧
    validAddr { defaultParams with base := 247 } 0xF6#8 = false ∧
    validAddr { defaultParams with base := 247 } 0x00#8 = false := by decide

/-- 60_exceptions.md R260: the codes of the failure reasons. -/
theorem test_failure_codes :
    [FailReason.invalidAddress, .typeMismatch, .elementCountMismatch, .invalidEnumValue,
      .reservedRegisterWrite, .readOnlyRegisterWrite, .invalidCommand].map failCode =
      [1, 2, 3, 4, 5, 6, 7] := by decide

/-- R96 and R97: the codes at the ends of each list, and the first byte past it. -/
theorem test_mode_codes :
    captureMode? defaultParams 0#8 = some .disabled ∧ captureMode? defaultParams 8#8 = some .poll2000Hz ∧
    captureMode? defaultParams 9#8 = none ∧ captureMode? defaultParams 255#8 = none ∧
    outputMode? defaultParams 0#8 = some .notUsed ∧ outputMode? defaultParams 7#8 = some (.pulse .ms5) ∧
    outputMode? defaultParams 8#8 = none := by decide

/-- R165: the edge tests, from the old level to the new one. -/
theorem test_edge_tests :
    edgeMatch .rise false true = true ∧ edgeMatch .rise true false = false ∧
    edgeMatch .fall true false = true ∧ edgeMatch .fall false true = false ∧
    edgeMatch .both true false = true ∧ edgeMatch .both true true = false ∧
    edgeMatch .off true false = false := by decide

/-- W10, the 16-bit values with STRAP_POS = (9, 10) and STRAP_INVERT = false. -/
theorem test_snapshot :
    mkSnapshot vectorParams 0x1FF#16 0#16 = 0x0000#16 ∧ mkSnapshot vectorParams 0#16 0#16 = 0x01FF#16 ∧
    mkSnapshot vectorParams 0x0FF#16 0#16 = 0x0100#16 ∧ mkSnapshot vectorParams 0x155#16 2#16 = 0x04AA#16 := by
  decide

/-- A u8 element is the low byte of WDATA and a u16 element has its second byte on top (R98), and the low
byte comes first (R73). -/
theorem test_port_words :
    elementU8 (payload 0xFF01#16) = 0x01#8 ∧ elementU16 (payload 0xFF01#16) = 0xFF01#16 ∧
    portBytes 0x1234#16 = [0x34#8, 0x12#8] ∧ rdataOfByte 0x28#8 = 0x0028#16 := by decide

/-- R160 with three straps at 15, 12 and 13 and STRAP_INVERT = true. -/
theorem test_other_snapshot :
    mkSnapshot otherParams 0xFFF#16 7#16 = 0x0000#16 ∧ mkSnapshot otherParams 0x7FE#16 6#16 = 0x8801#16 ∧
    mkSnapshot otherParams 0xFFF#16 1#16 = 0x3000#16 := by decide

/-- R71: no wrap-around, and R120: the value of each address of the bank. -/
theorem test_bank_addresses :
    bankRead 0x1F#8 p0 = none ∧ bankRead 0x29#8 p0 = none ∧ bankRead 0xFF#8 p0 = none ∧
    bankRead 0x23#8 p0 = some 1#16 ∧ bankRead 0x24#8 p0 = some 0#16 := by decide

/-- The window moves with BASE_ADDR and the registers stand at REG_OFFSET (R95); the notifications name the
address of INPUTS_STATE (R220). -/
theorem test_other_addresses :
    decode otherParams (.command 0x10870100 0) = .ok (.readOutputs 0#4 1#8 0#8) ∧
    decode otherParams (.command 0x10890100 0) = .ok (.readOutsideWindow 0#4 0x89#8 1#8 0#8) ∧
    peek (·.notifications.map (·.addr)) .baseTick otherPoll = some [0x88#8] ∧
    (powerCycle otherPoll).params.base = 0x80 := by
  refine ⟨by decide, by decide, by decide, rfl⟩

/-- R94, R96 and R97: other tags and other codes, by the same rules. -/
theorem test_other_codes :
    peek (·.responses) (.readEvntEnable 0#4 0x11#8 0#8) otherPoll = some [.ok 1#16] ∧
    peek (·.responses) (.readEvntEnable 0#4 0x01#8 0#8) otherPoll = some [.fail .typeMismatch] ∧
    peek (·.responses) (.writeInputCatchMode 0#4 0x11#8 1#8 0x38#16) otherPoll = some [.ok 0#16] ∧
    peek (·.responses) (.writeOutputMode 0#4 0x11#8 1#8 5#16) otherPoll = some [.fail .invalidEnumValue] ∧
    peek (fun t => [t.catchCode, t.omode]) (.reinit 0#28) otherPoll = some [0x31#8, 0x41#8] := by decide

/-- R171 with DIV = 10 and PHASE_W = 4 (the counter wraps after 15), R204 with PULSE_US = 300 and R301's
rate with BASE_HZ = 1000. -/
theorem test_other_cadence :
    [0, 5, 10, 15].map (fun n => peek (fun t => (t.tmr, t.phase)) .baseTick { otherPoll with phase := n }) =
      [some (.armed 300, 1), some (.idle, 6), some (.armed 300, 11), some (.idle, 0)] ∧
    pollRateHz otherParams .poll100Hz = some 100 := by decide

/-- R101, R162 and R164 with twelve inputs and three straps: the split of a pin word, the group of line 11, a strap
edge, and the arming of every line. -/
theorem test_other_lines :
    decode otherParams (.event 1 0x7FFF) = .ok (.pins 0x7FFF#16) ∧
    decode otherParams (.event 1 0x8000) = .error .outsidePortFormat ∧
    peek (fun t => (t.raw, t.strap, t.pend)) (.pins 0x57FF#16) otherEdge =
      some (0x7FF#16, 5#16, ⟨false, false, true⟩) ∧
    peek (·.pend) (.pins 0x7FFF#16) otherEdge = some ⟨false, false, false⟩ ∧
    peek (·.arm) (.writeInputCatchMode 0#4 0x11#8 1#8 0x31#16) otherPoll = some (List.replicate 12 .both) ∧
    (State.powerOn otherParams).arm = List.replicate 12 .both := by
  refine ⟨by decide, by decide, by decide, by decide, by decide, rfl⟩

/-- R166 and R167 with twelve inputs: a change of line 11 passes the filter, a strap change alone does not. -/
theorem test_other_filter :
    peek (fun t => (t.instate, t.pend.g2)) .edgeG2
      { otherEdge with raw := 0x7FF#16, strap := 7#16, pend := ⟨false, false, true⟩ } = some (0x0800#16, false) ∧
    peek (·.instate) .edgeG2 { otherEdge with strap := 1#16, pend := ⟨false, false, true⟩ } = some 0#16 := by
  decide

/-! ## READ (V1 to V17) -/

theorem test_read_inputs_state :
    peekWord (·.responses) 0x10200200#32 0#16 { p0 with instate := 0x05A3#16 } =
      some [.ok 0x05A3#16] ∧
    peekWord (·.responses) 0x10200100#32 0#16 p0 = some [.fail .typeMismatch] := by decide

theorem test_read_outputs :
    peekWord (·.responses) 0x10210100#32 0#16 { p0 with out := 1#1 } = some [.ok 1#16] ∧
    peekWord (·.responses) 0x10210200#32 0#16 p0 = some [.fail .typeMismatch] := by decide

theorem test_read_modes :
    peekWord (·.responses) 0x10220100#32 0#16 (p0catch 4#8) = some [.ok 4#16] ∧
    peekWord (·.responses) 0x10230100#32 0#16 p0pulse = some [.ok 5#16] := by decide

theorem test_read_reserved :
    peekWord (·.responses) 0x10240100#32 0#16 p0 = some [.ok 0#16] ∧
    peekWord (·.responses) 0x10250100#32 0#16 p0 = some [.ok 0#16] ∧
    peekWord (·.responses) 0x10260100#32 0#16 p0 = some [.ok 0#16] ∧
    peekWord (·.responses) 0x10270100#32 0#16 p0 = some [.ok 0#16] ∧
    peekWord (·.responses) 0x10270200#32 0#16 p0 = some [.fail .typeMismatch] := by decide

/-- V16: RSV and COUNT are ignored. -/
theorem test_read_evnt_enable :
    peekWord (·.responses) 0x1A280137#32 0#16 p0 = some [.ok 1#16] ∧
    peekWord (·.responses) 0x10280000#32 0#16 p0 = some [.fail .typeMismatch] := by decide

/-! ## WRITE (V20 to V49) -/

/-- V20 to V22. -/
theorem test_write_inputs_state :
    peekWord (·.responses) 0x20200201#32 0x01FF#16 p0 = some [.fail .readOnlyRegisterWrite] ∧
    peekWord (·.responses) 0x20200202#32 0#16 p0 = some [.fail .elementCountMismatch] ∧
    peekWord (·.instate) 0x20200201#32 0x01FF#16 p0 = some 0#16 := by decide

/-- V24, V25 and V29. -/
theorem test_write_outputs :
    peekWord (·.out) 0x20210101#32 0x0002#16 { p0 with out := 1#1 } = some 0#1 ∧
    peekWord (·.out) 0x20210101#32 0xFF01#16 p0 = some 1#1 ∧
    peekWord outTmr 0x20210101#32 0#16 p0pulse = some (0#1, .armed 1000) := by decide

/-- V31 and V34. -/
theorem test_write_catch_mode :
    peekWord (fun t => (t.catchCode, t.pend)) 0x20220101#32 2#16
      { p0 with pend := ⟨true, true, true⟩ } = some (2#8, ⟨true, false, false⟩) ∧
    peekWord (·.arm) 0x20220101#32 2#16 p0 =
      some [.rise, .off, .off, .off, .off, .off, .off, .off, .off] ∧
    peekWord (·.responses) 0x20220101#32 9#16 p0 = some [.fail .invalidEnumValue] := by decide

/-- V32 and V33: the flags of armed groups and the phase survive. -/
theorem test_write_catch_mode_keeps :
    peekWord (·.pend) 0x20220101#32 1#16 { p0 with pend := ⟨false, true, true⟩ } =
      some ⟨false, true, true⟩ ∧
    peekWord (·.phase) 0x20220101#32 8#16 { p0 with phase := 7 } = some 7 := by decide

/-- V38, V126 and V127. -/
theorem test_write_output_mode :
    peekWord outTmr 0x20230101#32 2#16 { p0 with raw := 0x1FE#16 } = some (1#1, .idle) ∧
    peekWord outTmr 0x20230101#32 1#16 { p0 with omode := 6#8, out := 1#1 } = some (1#1, .idle) ∧
    peekWord outTmr 0x20230101#32 2#16 { p0 with out := 1#1 } = some (0#1, .idle) := by decide

/-- W7: every row of the table, from a pending pulse with RAW[0] = 0. -/
theorem test_leave_pending_pulse :
    [0#16, 1#16, 2#16, 3#16, 5#16].map
        (fun w => peekWord outTmr 0x20230101#32 w { p0pulse with raw := 0x1FE#16 }) =
      [some (0#1, .idle), some (0#1, .idle), some (1#1, .idle), some (0#1, .idle),
        some (0#1, .idle)] := by decide

/-- V41 to V45. -/
theorem test_write_reserved :
    peekWord (·.responses) 0x20240101#32 0#16 p0 = some [.fail .reservedRegisterWrite] ∧
    peekWord (·.responses) 0x20250101#32 1#16 p0 = some [.fail .reservedRegisterWrite] ∧
    peekWord (·.responses) 0x20260101#32 0xFF#16 p0 = some [.fail .reservedRegisterWrite] ∧
    peekWord (·.responses) 0x20270201#32 0#16 p0 = some [.fail .typeMismatch] ∧
    peekWord (·.responses) 0x20270100#32 0#16 p0 = some [.fail .elementCountMismatch] := by decide

/-- V47, V48 and V49. -/
theorem test_write_evnt_enable :
    peekWord (·.even) 0x20280101#32 3#16 { p0 with even := 0#8 } = some 1#8 ∧
    peekWord (·.even) 0x20280101#32 0xFE#16 p0 = some 0#8 ∧
    peekWord (·.responses) 0x2F280101#32 1#16 p0 = some [.ok 0#16] := by decide

/-- W1, V50 to V54. -/
theorem test_failure_priority :
    peekWord (·.responses) 0x20FF0201#32 0xFFFF#16 p0 = some [.fail .invalidAddress] ∧
    peekWord (·.responses) 0x101F0100#32 0#16 p0 = some [.fail .invalidAddress] ∧
    peekWord (·.responses) 0x00000000#32 0#16 p0 = some [.fail .invalidCommand] ∧
    peekWord (·.responses) 0x40230101#32 5#16 p0 = some [.fail .invalidCommand] ∧
    peekWord (·.responses) 0xF0210101#32 1#16 p0 = some [.fail .invalidCommand] ∧
    peekWord (·.responses) 0x20290201#32 0#16 p0 = some [.fail .invalidAddress] ∧
    peekWord (·.responses) 0x20220200#32 9#16 p0 = some [.fail .typeMismatch] := by decide

/-! ## Capture (V60 to V102) -/

/-- V61 to V64 and V60. -/
theorem test_pins_groups :
    [0x1FF#16, 0x1FE#16, 0x1DF#16, 0x1BF#16, 0x0BE#16].map (fun v => peek (·.pend) (.pins v) p0) =
      [some ⟨false, false, false⟩, some ⟨true, false, false⟩, some ⟨false, true, false⟩,
        some ⟨false, false, true⟩, some ⟨true, false, true⟩] := by decide

/-- V65 to V70. -/
theorem test_pins_arming :
    peek (fun t => (t.pend.g0, t.strap)) (.pins 0x7FF#16) p0 = some (false, 3#16) ∧
    peek (·.pend.g0) (.pins 0x1FF#16) { p0catch 2#8 with raw := 0x1FE#16 } = some true ∧
    peek (·.pend.g0) (.pins 0x1FE#16) (p0catch 2#8) = some false ∧
    peek (·.pend.g0) (.pins 0x1FE#16) (p0catch 3#8) = some true ∧
    peek (·.pend) (.pins 0#16) (p0catch 4#8) = some ⟨false, false, false⟩ := by decide

/-- V72 and V73. -/
theorem test_edge_g0 :
    peek (fun t => (t.pend.g0, t.instate, t.out, t.notifications.map (·.addr))) .edgeG0 p0edge =
      some (false, 1#16, 1#1, [0x20#8]) ∧
    peek (fun t => (t.pend.g0, t.out, t.notifications)) .edgeG0
      { p0 with pend := ⟨true, false, false⟩ } = some (false, 0#1, []) := by decide

/-- V74 to V77: the raw-polarity gates. -/
theorem test_edge_g0_gates :
    peek (·.instate) .edgeG0 { p0catch 2#8 with
      instate := 1#16, pend := ⟨true, false, false⟩ } = some 0#16 ∧
    peek (·.instate) .edgeG0 { p0catch 2#8 with
      raw := 0x1FE#16, pend := ⟨true, false, false⟩ } = some 0#16 ∧
    peek (·.instate) .edgeG0 { p0catch 3#8 with
      raw := 0x1FE#16, pend := ⟨true, false, false⟩ } = some 1#16 ∧
    peek (·.instate) .edgeG0 { p0catch 3#8 with
      instate := 1#16, pend := ⟨true, false, false⟩ } = some 1#16 := by decide

/-- V78 and V79. -/
theorem test_edge_g1_g2 :
    peek (fun t => (t.instate, t.out)) .edgeG1
      { p0 with raw := 0x1FD#16, pend := ⟨false, true, false⟩ } = some (2#16, 1#1) ∧
    peek (fun t => (t.instate, t.out, t.pend.g2)) .edgeG2
      { p0 with raw := 0x0FF#16, instate := 0x100#16, pend := ⟨false, false, true⟩ } =
      some (0x100#16, 0#1, false) := by decide

/-- V80: a strap change alone never passes. -/
theorem test_edge_strap_only :
    peek (fun t => (t.instate, t.notifications)) .edgeG0
      { p0 with strap := 1#16, pend := ⟨true, false, false⟩ } = some (0#16, []) := by decide

/-- V82 and V123: not enabled, no step. -/
theorem test_not_enabled :
    faultOf .edgeG0 p0 = some (.stepNotEnabled (.edgeGroup .g0)) ∧
    faultOf .edgeG1 p0edge = some (.stepNotEnabled (.edgeGroup .g1)) ∧
    faultOf .edgeG2 p0edge = some (.stepNotEnabled (.edgeGroup .g2)) ∧
    faultOf .pulseFire { p0 with omode := 5#8, out := 1#1 } = some (.stepNotEnabled .pulseTimer) := by
  decide

/-- V90, V92, V93, V94 and V99: OUT toggles exactly where a tick samples. -/
theorem test_base_tick :
    [(1#8, 0), (4#8, 0), (4#8, 19), (4#8, 20), (4#8, 0xFFFF)].map
        (fun p => peek (fun t => (t.out, t.phase)) .baseTick { p0catch p.1 with phase := p.2 }) =
      [some (0#1, 1), some (1#1, 1), some (0#1, 20), some (1#1, 21), some (0#1, 0)] := by decide

/-- V95 to V98. -/
theorem test_base_tick_rates :
    [(5#8, 8), (6#8, 6), (7#8, 3), (8#8, 12345)].map
        (fun p => peek (·.out) .baseTick { p0catch p.1 with phase := p.2 }) =
      [some 1#1, some 0#1, some 0#1, some 1#1] := by decide

/-- V101. -/
theorem test_second_tick :
    peek (fun t => (t.phase, t.out)) .secondTick { p0catch 4#8 with phase := 1999 } =
      some (0, 0#1) := by decide

/-! ## Output and control (V110 to V135) -/

/-- V110 to V120, V113 with RAW[0] = 0: OUT and TMR after one accepted sample. -/
theorem test_output_actions :
    [0#8, 1#8, 2#8, 3#8, 4#8, 5#8, 6#8, 7#8].map
        (fun m => peek outTmr .edgeG0 { p0edge with omode := m }) =
      [some (0#1, .idle), some (1#1, .idle), some (1#1, .idle), some (1#1, .armed 250),
        some (1#1, .armed 500), some (1#1, .armed 1000), some (1#1, .armed 2000),
        some (1#1, .armed 5000)] := by decide

/-- V121 and V122. -/
theorem test_pulse_fire :
    peek outTmr .pulseFire p0pulse = some (0#1, .idle) ∧
    peek outTmr .pulseFire { p0pulse with out := 0#1 } = some (0#1, .idle) := by decide

/-- The state before V130. -/
def v130 : State :=
  { p0pulse with
    catchCode := 4#8, arm := arming vectorParams 4#8, even := 0#8, phase := 7, instate := 0x42#16 }

/-- V130. -/
theorem test_reinit :
    peekWord (fun t => [t.catchCode, t.omode, t.even]) 0x30000000#32 0#16 v130 =
      some [1#8, 1#8, 1#8] ∧
    peekWord (fun t => (t.phase, outTmr t, t.instate)) 0x30000000#32 0#16 v130 =
      some (0, (0#1, .idle), 0x42#16) ∧
    peekWord (·.arm) 0x3F123456#32 0xBEEF#16 v130 = some (List.replicate 9 .both) := by decide

/-- V131: PEND survives REINIT. -/
theorem test_reinit_keeps_pending :
    peek (fun t => (t.pend, t.responses)) (.reinit 0#28) p0edge =
      some (⟨true, false, false⟩, [.ok 0#16]) := by decide

/-- V132 and V133. -/
theorem test_force_safe :
    peek (fun t => (outTmr t, t.omode)) .forceSafe p0pulse = some ((0#1, .idle), 5#8) ∧
    peek outTmr .forceSafe { p0 with out := 1#1 } = some (0#1, .idle) := by decide

/-- R242: power loss restores the power-on values. -/
theorem test_power_cycle : (powerCycle p0pulse).tmr = .idle ∧ (powerCycle p0pulse).omode = 1#8 := by
  decide

/-! ## Placing a word -/

theorem test_placed_words_run :
    (match step (State.reset.withFetchWord 8 0x2) with | .next _ => true | _ => false) = true ∧
    (match step (State.reset.withFetchWord 32 0x10280100) with
      | .next t => some t.responses | _ => none) = some [.ok 1#16] := ⟨rfl, rfl⟩

/-- R100: an unnamed label is refused by name; R291: with nothing chosen there is no step. -/
theorem test_step_stops :
    (match step (State.reset.withFetchWord 8 0x9) with | .refused r => some r | _ => none) =
      some .unnamedEventLabel ∧
    (match step State.reset with | .fault r => some r | _ => none) = some .noStepChosen := ⟨rfl, rfl⟩

/-! ## Witnesses: the hypotheses of each statement, met together -/

theorem test_window_edges :
    inWindow defaultParams 0x20#8 ∧ inWindow defaultParams 0x28#8 ∧ ¬ inWindow defaultParams 0x1F#8 ∧
    ¬ inWindow defaultParams 0x29#8 ∧ inWindow { defaultParams with base := 247 } 0xFF#8 ∧
    ¬ inWindow { defaultParams with base := 247 } 0xF6#8 ∧
    inWindow { defaultParams with base := 0 } 0x00#8 ∧ ¬ inWindow { defaultParams with base := 0 } 0x09#8 := by
  unfold inWindow; decide

/-- P0 meets the invariant. -/
theorem test_p0_inv : State.Inv p0 where
  catchLegal := ⟨.onAnyChange, rfl⟩
  omodeLegal := ⟨.toggle, rfl⟩
  evenLegal := by decide
  armOfCatch := by decide
  pendArmed := by intro g h; cases g <;> cases h
  phaseFits := by decide
  rawFits := by decide
  strapFits := by decide
  timerOfPulse := by intro us h; cases h

/-- Every capture mode has a state that meets the invariant. -/
theorem test_catch_inv (m : CaptureMode) : State.Inv (p0catch (captureCode vectorParams m)) where
  catchLegal := ⟨m, rfl⟩
  omodeLegal := ⟨.toggle, rfl⟩
  evenLegal := .inr rfl
  armOfCatch := by cases m <;> decide
  pendArmed := by intro g h; cases g <;> cases h
  phaseFits := Nat.two_pow_pos 16
  rawFits := test_p0_inv.rawFits
  strapFits := test_p0_inv.strapFits
  timerOfPulse := by intro us h; cases h

/-- A pulse may be pending in a state that meets the invariant. -/
theorem test_pulse_inv : State.Inv p0pulse where
  catchLegal := ⟨.onAnyChange, rfl⟩
  omodeLegal := ⟨.pulse .ms1, rfl⟩
  evenLegal := by decide
  armOfCatch := by decide
  pendArmed := by intro g h; cases g <;> cases h
  phaseFits := by decide
  rawFits := by decide
  strapFits := by decide
  timerOfPulse := by intro us h; cases h; exact ⟨.ms1, rfl, rfl⟩

/-- So may other parameters, at the last count before a counter of four bits wraps. -/
theorem test_other_inv : State.Inv { otherPoll with phase := 15 } where
  catchLegal := ⟨.poll100Hz, rfl⟩
  omodeLegal := ⟨.pulse .ms1, rfl⟩
  evenLegal := by decide
  armOfCatch := by decide
  pendArmed := by intro g h; cases g <;> cases h
  phaseFits := by decide
  rawFits := by decide
  strapFits := by decide
  timerOfPulse := by intro us h; cases h

theorem test_witness_EncodeRebuildsTheCommandWord :
    (0x20230101#32).extractLsb' 28 4 = 2#4 ∧ (0x10230101#32).extractLsb' 28 4 ≠ 2#4 := by decide

theorem test_witness_CommandWordsDecodeByCmdAlone :
    (decodeCommand defaultParams (wordOf 1#4 0#4 0x20#8 2#8 1#8) 0#16).kind = .read ∧
    (decodeCommand defaultParams (wordOf 2#4 0#4 0x28#8 1#8 1#8) 0#16).kind = .write .evntEnable ∧
    (decodeCommand defaultParams (wordOf 2#4 0#4 0x29#8 1#8 1#8) 0#16).kind = .outsideWindow ∧
    (decodeCommand defaultParams (wordOf 1#4 0#4 0x1F#8 1#8 1#8) 0#16).kind = .outsideWindow ∧
    (decodeCommand defaultParams (wordOf 3#4 0#4 0#8 0#8 0#8) 0#16).kind = .reinit ∧
    (decodeCommand defaultParams (wordOf 4#4 0#4 0#8 0#8 0#8) 0#16).kind = .reservedCommand ∧
    (decodeCommand defaultParams (wordOf 15#4 0#4 0#8 0#8 0#8) 0#16).kind = .reservedCommand := by decide

theorem test_witness_StepRunsTheDecodedInstruction :
    { p0 with inputs := [.event 5 0] }.inputs = PortInput.event 5 0 :: [] ∧
    decode defaultParams (.event 5 0) = .ok .baseTick := ⟨rfl, rfl⟩

/-- One state for each clause: nothing chosen, a wide command, a wide event, an unnamed label. -/
theorem test_witness_UnreadableInputsStopByName :
    p0.inputs = [] ∧ (2 ^ 32 ≤ 2 ^ 32 ∨ 2 ^ 16 ≤ 0) ∧ (2 ^ 4 ≤ 16 ∨ 2 ^ 11 ≤ 0) ∧
    ((2047 < 2 ^ 11) ∧ (0 = 0 ∨ 9 ≤ 0 ∧ 0 < 16)) ∧ (9 = 0 ∨ 9 ≤ 9 ∧ 9 < 16) ∧
    (15 = 0 ∨ 9 ≤ 15 ∧ 15 < 16) := by decide

theorem test_witness_PlacedTableWordRunsNext :
    (p0default.params = defaultParams ∧ decodeTableWord 8 0x7 = some .pulseFire) ∧
    decode otherParams (tableInput 32 0x30000000) = .ok (.reinit 0#28) := ⟨⟨rfl, rfl⟩, rfl⟩

/-- Enabled and not enabled. -/
theorem test_witness_StepTakenExactlyWhenEnabled :
    sourcePending p0edge (.edgeGroup .g0) = true ∧ sourcePending p0 (.edgeGroup .g0) = false ∧
    sourcePending p0pulse .pulseTimer = true ∧ handlerSource? (Instr.reinit 0#28).kind = none := by
  decide

theorem test_witness_StepKeepsTheInvariant :
    State.Inv { p0 with inputs := [.event 5 0] } ∧
    ∃ t, step { p0 with inputs := [.event 5 0] } = .next t :=
  ⟨⟨test_p0_inv.1, test_p0_inv.2, test_p0_inv.3, test_p0_inv.4, test_p0_inv.5, test_p0_inv.6,
    test_p0_inv.7, test_p0_inv.8, test_p0_inv.9⟩, _, rfl⟩

/-- The type and count clauses of the READ and WRITE statements, and the legal and illegal codes at the
ends of their ranges. -/
theorem test_witness_commands :
    (0x01#8 = p0.params.typeU8 ∧ 0x02#8 ≠ p0.params.typeU8 ∧ 0x02#8 = p0.params.typeU16 ∧
      0x01#8 ≠ p0.params.typeU16) ∧
    ((1#8 : Byte) = 1#8 ∧ (0#8 : Byte) ≠ 1#8 ∧ (2#8 : Byte) ≠ 1#8) ∧
    (legalCapture p0.params ((8#16 : Half).extractLsb' 0 8) ∧
      ¬ legalCapture p0.params ((9#16 : Half).extractLsb' 0 8)) ∧
    (legalOutput p0.params ((0x0107#16 : Half).extractLsb' 0 8) ∧
      ¬ legalOutput p0.params ((8#16 : Half).extractLsb' 0 8)) := by
  unfold legalCapture legalOutput
  decide

/-- Each clause of the dispatch of a READ: below the window, a wrong type, both ends with their tags. -/
theorem test_witness_ReadWordsDispatchByTheTable :
    ¬ inWindow defaultParams 0x1F#8 ∧ (inWindow defaultParams 0x20#8 ∧ 0x01#8 ≠ tagAt defaultParams 0x20#8) ∧
    (inWindow defaultParams 0x20#8 ∧ 0x02#8 = tagAt defaultParams 0x20#8) ∧
    (inWindow defaultParams 0x28#8 ∧ 0x01#8 = tagAt defaultParams 0x28#8) := by
  unfold inWindow; decide

/-- Each clause of the failure order, at the ends of its range. -/
theorem test_witness_FailureReasonIsTheFirstInOrder :
    (4 ≤ (4#4).toNat ∧ 4 ≤ (15#4).toNat) ∧
    (AtRow p0.params 0x22#8 2 ∧ ¬ legalCapture p0.params ((9#16 : Half).extractLsb' 0 8)) ∧
    (AtRow p0.params 0x22#8 2 ∧ legalCapture p0.params ((0x0108#16 : Half).extractLsb' 0 8)) ∧
    (AtRow p0.params 0x23#8 3 ∧ ¬ legalOutput p0.params ((8#16 : Half).extractLsb' 0 8)) ∧
    (AtRow p0.params 0x23#8 3 ∧ legalOutput p0.params ((7#16 : Half).extractLsb' 0 8)) ∧
    (AtRow p0.params 0x24#8 4 ∧ AtRow p0.params 0x27#8 7) ∧
    (AtRow p0.params 0x20#8 0 ∧ AtRow p0.params 0x21#8 1 ∧ AtRow p0.params 0x28#8 8) ∧
    (0x01#8 = tagAt p0.params 0x22#8 ∧ 0x01#8 = tagAt p0.params 0x24#8 ∧ 0x02#8 = tagAt p0.params 0x20#8) := by
  unfold legalCapture legalOutput
  decide

/-- A host command that fails, and one that reads. -/
theorem test_witness_FailedCommandChangesNothing :
    (Instr.readOutputs 0#4 1#8 1#8).kind.isHost = true ∧
    (∃ t, exec (.readOutputs 0#4 1#8 1#8) p0 = .next t) ∧
    ∃ t, exec (.writeOutputs 0#4 2#8 1#8 1#16) p0 = .next t ∧
      t.responses = p0.responses ++ [.fail .typeMismatch] ∧ okBit (.fail .typeMismatch) = 0#1 :=
  ⟨rfl, ⟨_, rfl⟩, _, rfl, rfl, rfl⟩

theorem test_witness_HostCommandsAnswerExactlyOnce :
    (Instr.writeOutputs 0#4 1#8 1#8 1#16).WellFormed defaultParams ∧ Instr.baseTick.WellFormed defaultParams ∧
    (∃ t, exec (.writeOutputs 0#4 1#8 1#8 1#16) p0 = .next t) ∧ ∃ t, exec .baseTick p0 = .next t :=
  ⟨rfl, rfl, ⟨_, rfl⟩, _, rfl⟩

theorem test_witness_HostWriteDoesNotCancelAPulse :
    p0pulse.tmr = .armed 1000 ∧ legalOutput p0pulse.params ((7#16 : Half).extractLsb' 0 8) := by
  unfold legalOutput; decide

theorem test_witness_EdgeG0SamplesThroughItsGate :
    p0edge.pend.g0 = true ∧ gateOpen p0edge = true ∧ ¬ SameInputs p0edge := by decide

theorem test_witness_EdgeG1AndG2SampleUnderOnAnyChange :
    { p0 with pend := ⟨false, true, true⟩ }.pend.g1 = true ∧
    { p0 with pend := ⟨false, true, true⟩ }.pend.g2 = true := by decide

/-- An edge pending with nothing new to see, and a poll tick that is due, in one state each. -/
theorem test_witness_OnlyEdgeSamplesAreFiltered :
    (SameInputs { p0 with pend := ⟨true, true, true⟩ } ∧
      ∀ g, pending { p0 with pend := ⟨true, true, true⟩ }.pend g = true) ∧
    (SameInputs (p0catch 4#8) ∧ TickDue (p0catch 4#8)) := by
  exact ⟨⟨by decide, by intro g; cases g <;> rfl⟩, by decide, by decide⟩

/-- A state of each kind the second clause names, reached by a step. -/
theorem test_witness_PulseFireEndsThePulseOnce :
    p0pulse.tmr = .armed 1000 ∧ (∃ t, exec .pulseFire p0pulse = .next t) ∧
    (∃ t, exec (.reinit 0#28) p0pulse = .next t) ∧ (∃ t, exec .forceSafe p0pulse = .next t) ∧
    ∃ t, exec (.writeOutputMode 0#4 1#8 1#8 6#16) p0pulse = .next t ∧
      t.responses = p0pulse.responses ++ [.ok 0#16] := ⟨rfl, ⟨_, rfl⟩, ⟨_, rfl⟩, ⟨_, rfl⟩, _, rfl, rfl⟩

theorem test_witness_OnlyAcceptedSamplesNotify :
    peek (fun t => t.notifications.length) .edgeG0 p0edge = some 1 ∧ p0edge.notifications = [] := by
  decide

/-- Each clause's premise is met: the step changes the element. -/
theorem test_witness_OnlyTheListedStepsWriteAnElement :
    peek (·.out) (.writeOutputs 0#4 1#8 1#8 1#16) p0 = some 1#1 ∧
    peek (·.catchCode) (.writeInputCatchMode 0#4 1#8 1#8 8#16) p0 = some 8#8 ∧
    peek (·.omode) (.writeOutputMode 0#4 1#8 1#8 7#16) p0 = some 7#8 ∧
    peek (·.even) (.writeEvntEnable 0#4 1#8 1#8 0#16) p0 = some 0#8 ∧
    peek (·.instate) .edgeG0 p0edge = some 1#16 ∧
    peek (·.pend.g2) (.pins 0#16) p0 = some true ∧ peek (·.phase) .baseTick p0 = some 1 ∧
    peek (·.tmr) .forceSafe p0pulse = some .idle ∧ peek (·.strap) (.pins 0x7FF#16) p0 = some 3#16 := by
  decide

/-- Both ends of each clause's modes, in states that meet the invariant (test_catch_inv, test_p0_inv). -/
theorem test_witness_TriggerSourcesAreExclusive :
    (p0catch 0#8).catchCode = vectorParams.catchCodes[0] ∧
    (p0catch 3#8).catchCode = vectorParams.catchCodes[3] ∧
    divOf vectorParams (p0catch 4#8).catchCode ≠ 0 ∧ divOf vectorParams (p0catch 8#8).catchCode ≠ 0 ∧
    (p0catch 2#8).catchCode = vectorParams.catchCodes[2] := by decide

/-- W4: the second handler's flag is set when the first ends. -/
theorem test_witness_SecondEdgeOfOnePatternIsDiscarded :
    ∃ t, exec (edgeInstr .g0) { p0edge with pend := ⟨true, true, false⟩ } = .next t ∧
      pending t.pend .g1 = true ∧ p0edge.catchCode = p0edge.params.catchCodes[1] := ⟨_, rfl, by decide, rfl⟩

/-- W8's start: INSTATE = 0x0104 and RAW = 0x0FB. -/
theorem test_witness_FallingInputZeroIsCapturedEndToEnd :
    State.Inv { p0 with instate := 0x104#16, raw := 0x0FB#16 } ∧
    (0x0FB#16).getLsbD 0 = true ∧
    0x104#16 &&& inputBits p0.params = ~~~0x0FB#16 &&& inputBits p0.params :=
  ⟨⟨test_p0_inv.1, test_p0_inv.2, test_p0_inv.3, test_p0_inv.4, test_p0_inv.5, test_p0_inv.6,
    by decide, test_p0_inv.8, test_p0_inv.9⟩, by decide, by decide⟩

theorem test_witness_PollModesKeepTheirCadence :
    (divOf defaultParams 4#8 ≠ 0 ∧ divOf defaultParams 8#8 ≠ 0 ∧
      65536 ≤ 2 ^ defaultParams.phaseW ∧ 20 ∣ 65520) ∧
    ({ p0default with catchCode := 4#8 }.params = defaultParams ∧
      { p0default with catchCode := 4#8 }.phase = 0 ∧
      { p0default with catchCode := 4#8 }.even.getLsbD 0 = true) := ⟨by decide, rfl, rfl, rfl⟩

/-- The same with other parameters. -/
theorem test_witness_PollModesKeepTheirCadence_other :
    divOf otherPoll.params otherPoll.catchCode = 10 ∧ otherPoll.phase = 0 ∧
    otherPoll.even.getLsbD 0 = true ∧ 16 ≤ 2 ^ otherPoll.params.phaseW := by decide

/-- Both premises of the last clauses of the two mode reads. -/
theorem test_witness_modeReads : State.Inv p0default ∧ p0default.params = defaultParams :=
  ⟨⟨⟨.onAnyChange, rfl⟩, ⟨.toggle, rfl⟩, test_p0_inv.3, by decide, (by intro g h; cases g <;> cases h),
    by decide, test_p0_inv.7, test_p0_inv.8, (by intro us h; cases h)⟩, rfl⟩

/-- Two states that differ in their straps only, and two pin words that do. -/
theorem test_witness_StrapBitsInfluenceNothingElse :
    forgetStraps p0 = forgetStraps { p0 with strap := 3#16, instate := 0x0A00#16 } ∧
    0x1FE#16 &&& inputBits p0.params = 0x7FE#16 &&& inputBits p0.params ∧
    (∃ t, exec (.readInputsState 0#4 2#8 0#8) p0 = .next t) ∧ ∃ t, exec (.pins 0x1FE#16) p0 = .next t :=
  ⟨rfl, by decide, ⟨_, rfl⟩, _, rfl⟩

end Sys2Proof.Tests
end

/-! # The scope of a step (00_scope.md): proofs

How the next step is chosen, when it can be taken, what it answers, and the defaults of the parameters. -/

namespace Sys2Proof.Machine

/-! ## The step runs the decoded input (R3, R4) -/

theorem step_of_decode {s : State} {f : PortInput} {rest : List PortInput} {i : Instr}
    (hin : s.inputs = f :: rest) (hd : decode s.params f = .ok i) :
    step s = exec i { s with inputs := rest } := by
  simp only [step, takeInput_cons hin, hd]

/-- Settles O7: the head of the inputs is taken, and its decoding is the instruction run. -/
theorem stepRunsTheDecodedInstruction : Obligations.StepRunsTheDecodedInstruction :=
  fun _ _ _ _ hin hd => step_of_decode hin hd

/-! ## When a step can be taken (R23, R266, R291) -/

/-- A step with no handler source answers in every state. -/
theorem exec_next_of_no_source {i : Instr} (h : handlerSource? i.kind = none) (s : State) :
    ∃ t, exec i s = .next t := by
  cases i with
  | edgeG0 | edgeG1 | edgeG2 | pulseFire => cases h
  | _ => exact ⟨_, rfl⟩

/-- The steps with a handler source are the three edge handlers and the fire handler. -/
theorem instr_of_source {i : Instr} {src : HandlerSource} (h : handlerSource? i.kind = some src) :
    (∃ g, i = edgeInstr g ∧ src = .edgeGroup g) ∨ (i = .pulseFire ∧ src = .pulseTimer) := by
  cases i with
  | edgeG0 => cases h; exact .inl ⟨.g0, rfl, rfl⟩
  | edgeG1 => cases h; exact .inl ⟨.g1, rfl, rfl⟩
  | edgeG2 => cases h; exact .inl ⟨.g2, rfl, rfl⟩
  | pulseFire => cases h; exact .inr ⟨rfl, rfl⟩
  | _ => cases h

theorem exec_edgeInstr (g : Group) (s : State) :
    ∃ body, exec (edgeInstr g) s = runEdgeHandler g body s := by
  cases g <;> exact ⟨_, rfl⟩

/-- A handler step whose source is pending answers. -/
theorem exec_next_of_source_pending {i : Instr} {s : State} {src : HandlerSource}
    (h : handlerSource? i.kind = some src) (hp : sourcePending s src = true) :
    ∃ t, exec i s = .next t := by
  obtain ⟨g, rfl, rfl⟩ | ⟨rfl, rfl⟩ := instr_of_source h
  · obtain ⟨body, e⟩ := exec_edgeInstr g s
    exact ⟨_, e.trans (if_pos hp)⟩
  · exact ⟨_, if_pos hp⟩

/-- A handler step whose source is not pending stops with the fault that names the source. -/
theorem exec_fault_of_source_not_pending {i : Instr} {s : State} {src : HandlerSource}
    (h : handlerSource? i.kind = some src) (hp : ¬ sourcePending s src = true) :
    exec i s = .fault (.stepNotEnabled src) := by
  obtain ⟨g, rfl, rfl⟩ | ⟨rfl, rfl⟩ := instr_of_source h
  · obtain ⟨body, e⟩ := exec_edgeInstr g s
    exact e.trans (if_neg hp)
  · exact if_neg hp

/-- Settles O10, by whether the step has a handler source and whether that source is pending. -/
theorem stepTakenExactlyWhenEnabled : Obligations.StepTakenExactlyWhenEnabled := by
  intro i s
  split
  · next h => exact exec_next_of_no_source h s
  · next src h =>
    split
    · next hp => exact exec_next_of_source_pending h hp
    · next hp => exact exec_fault_of_source_not_pending h hp

/-! ## The loader: what placing an input sets and leaves (log 2) -/

/-- Placing an input puts it first, and writes at most a pending flag or the timer besides. -/
theorem placeInput_frame (f : PortInput) (s : State) :
    placeInput f s = { s with
      inputs := f :: s.inputs, pend := (placeInput f s).pend, tmr := (placeInput f s).tmr } := by
  unfold placeInput
  split
  case h_4 => dsimp only; split <;> rfl
  all_goals rfl

@[simp] theorem placeInput_inputs (f : PortInput) (s : State) :
    (placeInput f s).inputs = f :: s.inputs := by rw [placeInput_frame]
@[simp] theorem placeInput_params (f : PortInput) (s : State) :
    (placeInput f s).params = s.params := by rw [placeInput_frame]
@[simp] theorem placeInput_instate (f : PortInput) (s : State) :
    (placeInput f s).instate = s.instate := by rw [placeInput_frame]
@[simp] theorem placeInput_out (f : PortInput) (s : State) :
    (placeInput f s).out = s.out := by rw [placeInput_frame]
@[simp] theorem placeInput_catchCode (f : PortInput) (s : State) :
    (placeInput f s).catchCode = s.catchCode := by rw [placeInput_frame]

/-- A placed handler step has its source pending. -/
theorem placeInput_source_pending {f : PortInput} {s : State} {i : Instr} {src : HandlerSource}
    (hd : decode s.params f = .ok i) (h : handlerSource? i.kind = some src) :
    sourcePending (placeInput f s) src = true := by
  obtain ⟨g, rfl, rfl⟩ | ⟨rfl, rfl⟩ := instr_of_source h
  · cases g <;> simp [placeInput, hd, edgeInstr, sourcePending]
  · simp only [placeInput, hd, sourcePending]
    split
    · assumption
    · rfl

/-- The next step after placing an input runs what it decodes to, and answers. -/
theorem step_placeInput {f : PortInput} {s : State} {i : Instr} (hd : decode s.params f = .ok i) :
    ∃ t, step (placeInput f s) = exec i { placeInput f s with inputs := s.inputs } ∧
      exec i { placeInput f s with inputs := s.inputs } = .next t := by
  have answers : ∃ t, exec i { placeInput f s with inputs := s.inputs } = .next t := by
    cases h : handlerSource? i.kind with
    | none => exact exec_next_of_no_source h _
    | some src =>
      have hp := placeInput_source_pending hd h
      exact exec_next_of_source_pending h (by cases src <;> exact hp)
  obtain ⟨t, ht⟩ := answers
  exact ⟨t, step_of_decode (placeInput_inputs f s) ((placeInput_params f s).symm ▸ hd), ht⟩

/-- The table is read with the default parameters. -/
theorem decodeTableWord_eq_some_iff {nbits w : Nat} {i : Instr} :
    decodeTableWord nbits w = some i ↔ decode defaultParams (tableInput nbits w) = .ok i := by
  unfold decodeTableWord
  cases decode defaultParams (tableInput nbits w) <;> simp

/-- Settles O9: the placed word is the head of the inputs, and its handler source is pending if it has one. -/
theorem placedTableWordRunsNext : Obligations.PlacedTableWordRunsNext := by
  intro s nbits w i h
  have hd : decode s.params (tableInput nbits w) = .ok i := by
    obtain h | ⟨hp, h⟩ := h
    · exact h
    · exact hp ▸ decodeTableWord_eq_some_iff.mp h
  obtain ⟨t, hstep, ht⟩ := step_placeInput hd
  exact ⟨_, t, hstep, ht, rfl, placeInput_instate _ s, placeInput_out _ s, placeInput_catchCode _ s⟩

/-! ## The answers of a step (R22, R80, R93) -/

/-- What an accepted WRITE does is no answer: the answer is given after it. -/
theorem writeHandler_responses {r : Register} {bytes : List Byte} {s t : State}
    (h : writeHandler r bytes s = .ok t) : t.responses = s.responses := by
  obtain ⟨-, rfl⟩ | ⟨-, -, rfl⟩ | ⟨m, -, -, rfl⟩ | ⟨-, rfl⟩ := writeHandler_cases h <;> simp

theorem rdata_of_okBit_zero {r : Response} (h : okBit r = 0#1) : rdata r = 0#16 := by
  cases r with
  | ok data => simp [okBit] at h
  | fail reason => rfl

theorem Effect.responses_of_event {i : Instr} {s t : State} (e : Effect i s t)
    (h : i.kind.isHost = false) : t.responses = s.responses := by
  cases e with
  | answered r host | wrote r bytes u host => simp [host] at h
  | reinit kind => rw [kind] at h; cases h
  | pins pv what next => cases next; rfl
  | edgeSample g what kind set next | edgeOnly g what kind set next => simp [next]
  | tickSample kind due next | tickOnly kind due next => simp [next]
  | second kind next | fire kind armed next | safe kind next => simp [next]

/-- A well-formed host command adds one answer, and its RDATA is 0 unless it is a READ that succeeded. -/
theorem Effect.response_of_host {i : Instr} {s t : State} (e : Effect i s t)
    (wf : i.WellFormed s.params) (h : i.kind.isHost = true) :
    ∃ r, t.responses = s.responses ++ [r] ∧ (okBit r = 0#1 ∨ i.kind ≠ .read → rdata r = 0#16) := by
  cases e with
  | answered r host next why =>
    refine ⟨r, by simp [next], fun hr => ?_⟩
    obtain hread | ⟨reason, rfl⟩ | ill := why
    · exact rdata_of_okBit_zero (hr.resolve_right (not_not_intro hread))
    · rfl
    · exact absurd wf (by simp [ill])
  | wrote r bytes u host what handler next =>
    exact ⟨.ok 0#16, by simp [next, writeHandler_responses handler], fun _ => rfl⟩
  | reinit kind next => exact ⟨.ok 0#16, by rw [next]; rfl, fun _ => rfl⟩
  | pins pv what => subst what; cases h
  | edgeSample g what kind | edgeOnly g what kind => rw [kind] at h; cases h
  | tickSample kind | tickOnly kind | second kind | fire kind | safe kind => rw [kind] at h; cases h

/-- Settles O32, by what the step did (`exec_effect`). -/
theorem hostCommandsAnswerExactlyOnce : Obligations.HostCommandsAnswerExactlyOnce :=
  fun _ _ _ wf ht => ⟨(exec_effect ht).responses_of_event, (exec_effect ht).response_of_host wf⟩

/-! ## The default parameters (section 4) -/

/-- Two distinct positions in 15:9, whatever the open draws are (10_state.md R40). -/
theorem defaultParams_strapPos : ∃ q₀ q₁, defaultParams.strapPos = [q₀, q₁] ∧ q₀ ≠ q₁ ∧
    9 ≤ q₀ ∧ q₀ ≤ 15 ∧ 9 ≤ q₁ ∧ q₁ ≤ 15 := by
  obtain ⟨q₀, q₁, e⟩ := List.length_eq_two.mp defaultParams.strapCount
  have hne := defaultParams.strapDistinct
  have hin := defaultParams.strapAbove
  simp only [e, List.nodup_cons, List.mem_cons, forall_eq_or_imp, List.not_mem_nil] at hne hin
  have h9 : defaultParams.nIn = 9 := rfl
  rw [h9] at hin
  exact ⟨q₀, q₁, e, by grind, by omega, by omega, by omega, by omega⟩

/-- The register offsets are 0 to 8 in the order of the table (10_state.md R32). -/
theorem defaultParams_offsets (i : Fin 9) : (defaultParams.offsets[i]).val = i.val := by
  revert i
  decide

/-- The capture codes are 0 to 8, and no other byte names a mode (30_encoding.md R96). -/
theorem captureMode?_defaultParams (c : Byte) : captureMode? defaultParams c =
    if c = 0#8 then some .disabled else if c = 1#8 then some .onAnyChange
    else if c = 2#8 then some .riseOnInput0 else if c = 3#8 then some .fallOnInput0
    else if c = 4#8 then some .poll100Hz else if c = 5#8 then some .poll250Hz
    else if c = 6#8 then some .poll500Hz else if c = 7#8 then some .poll1000Hz
    else if c = 8#8 then some .poll2000Hz else none := by
  split_ifs
  case neg =>
    refine captureMode?_eq_none_iff.mpr fun m => ?_
    cases m <;> assumption
  all_goals exact captureMode?_eq_some_iff.mpr ‹_›

/-- The output codes are 0 to 7, and no other byte names a mode (30_encoding.md R97). -/
theorem outputMode?_defaultParams (c : Byte) : outputMode? defaultParams c =
    if c = 0#8 then some .notUsed else if c = 1#8 then some .toggle
    else if c = 2#8 then some .mirrorInput0 else if c = 3#8 then some (.pulse .us250)
    else if c = 4#8 then some (.pulse .us500) else if c = 5#8 then some (.pulse .ms1)
    else if c = 6#8 then some (.pulse .ms2) else if c = 7#8 then some (.pulse .ms5) else none := by
  split_ifs
  case neg =>
    refine outputMode?_eq_none_iff.mpr fun m => ?_
    rcases m with _ | _ | _ | (_ | _ | _ | _ | _) <;> assumption
  all_goals exact outputMode?_eq_some_iff.mpr ‹_›

/-- Settles O52: the plain defaults by definition, the straps and the mode maps by the lemmas above. -/
theorem defaultParametersAreTheSpecs : Obligations.DefaultParametersAreTheSpecs :=
  ⟨rfl, rfl, rfl, defaultParams_strapPos, rfl, defaultParams_offsets, rfl, rfl,
    captureMode?_defaultParams, outputMode?_defaultParams, rfl, rfl, rfl, rfl⟩

end Sys2Proof.Machine

/-! # The state (10_state.md): proofs

The invariant of the reachable states, the writer matrix, and what the strap bits cannot influence. -/

namespace Sys2Proof.Machine

/-! ## The invariant at power-on (R51) -/

@[simp] theorem armCfg_onAnyChange (p : Params) :
    armCfg p (captureCode p .onAnyChange) = List.replicate p.nIn .both := by
  simp [armCfg]

theorem and_lowMask_lt (v : Lines) {n : Nat} (h : n ≤ 16) : (v &&& lowMask n).toNat < 2 ^ n := by
  rw [and_lowMask_toNat v n h]
  exact Nat.mod_lt _ (Nat.two_pow_pos _)

theorem powerOn_inv (p : Params) : State.Inv (State.powerOn p) where
  catchLegal := ⟨.onAnyChange, rfl⟩
  omodeLegal := ⟨.toggle, rfl⟩
  evenLegal := .inr rfl
  armOfCatch := (armCfg_onAnyChange p).symm
  pendArmed g h := by cases g <;> cases h
  phaseFits := Nat.two_pow_pos _
  rawFits := and_lowMask_lt _ (nIn_le p)
  strapFits := and_lowMask_lt _ (nStrap_le p)
  timerOfPulse _ h := by cases h

/-- Settles O12: reset is power-on with the default parameters. -/
theorem resetMeetsTheInvariant : Obligations.ResetMeetsTheInvariant :=
  ⟨powerOn_inv defaultParams, powerOn_inv⟩

/-! ## REINIT against power-on (R51, R240, R292) -/

theorem reinitState_eq (s : State) : reinitState s = { State.powerOn s.params with
    instate := s.instate, pend := s.pend, raw := s.raw, strap := s.strap, inputs := s.inputs
    notifications := s.notifications, responses := s.responses } := by
  simp [reinitState, applyArming, State.powerOn, setOut, timerDisarm]

/-- Settles O14: what REINIT does before it answers is `reinitState`. -/
theorem reinitIsPowerOnButForWhatItLeaves : Obligations.ReinitIsPowerOnButForWhatItLeaves := by
  intro x s
  simp [exec, execReinit, respond, reinitState_eq]

/-! ## Facts the invariant turns on -/

/-- What EVNT_ENABLE stores is a bit (R36). -/
theorem byte_and_one (b : Byte) : b &&& 0x01#8 = 0x00#8 ∨ b &&& 0x01#8 = 0x01#8 := by
  rw [BitVec.and_one_eq_setWidth_ofBool_getLsbD]
  cases b.getLsbD 0
  · exact .inl rfl
  · exact .inr rfl

/-- An edge is on an armed line (41_capture.md R165). -/
theorem groupArmed_of_groupEdge {p : Params} {arm : List EdgeArm} {old new : Lines} {g : Group}
    (h : groupEdge p arm old new g = true) : groupArmed p arm g = true := by
  obtain ⟨i, hi, hg, hm⟩ := groupEdge_iff.mp h
  exact groupArmed_iff.mpr ⟨i, hi, hg, fun hoff => by simp [hoff, edgeMatch] at hm⟩

/-- Arming every line arms every group that has an armed line under some other arming. -/
theorem groupArmed_replicate_both {p : Params} {arm : List EdgeArm} {g : Group}
    (h : groupArmed p arm g = true) : groupArmed p (List.replicate p.nIn .both) g = true := by
  obtain ⟨i, hi, hg, -⟩ := groupArmed_iff.mp h
  exact groupArmed_iff.mpr ⟨i, hi, hg, by simp [lineArm, hi]⟩

/-! ## Each operation keeps the invariant (R34 to R36, R41 to R46)

An update keeps every clause that speaks of fields it leaves; each lemma gives the clauses it does touch. -/

namespace State.Inv

variable {s : State}

theorem respond (h : s.Inv) (r : Response) : (respond r s).Inv := { h with }

theorem emitNotify (h : s.Inv) (a : Byte) (v : Half) : (emitNotify a v s).Inv := { h with }

theorem setOut (h : s.Inv) (b : BitVec 1) : (setOut b s).Inv := { h with }

theorem with_instate (h : s.Inv) (v : Half) : { s with instate := v }.Inv := { h with }

theorem with_inputs (h : s.Inv) (fs : List PortInput) : { s with inputs := fs }.Inv := { h with }

theorem with_phase (h : s.Inv) {n : Nat} (hn : n < 2 ^ s.params.phaseW) : { s with phase := n }.Inv :=
  { h with phaseFits := hn }

theorem with_even (h : s.Inv) (b : Byte) : { s with even := b &&& 0x01#8 }.Inv :=
  { h with evenLegal := byte_and_one b }

theorem timerDisarm (h : s.Inv) : (timerDisarm s).Inv := { h with timerOfPulse := nofun }

/-- A timer may be armed with the duration of the pulse mode that OMODE holds. -/
theorem timerArm (h : s.Inv) {w : PulseWidth} (hw : s.omode = outputCode s.params (.pulse w)) :
    (timerArm (pulseUs s.params w) s).Inv :=
  { h with timerOfPulse := fun us hus => ⟨w, hw, by cases hus; rfl⟩ }

theorem clearPending (h : s.Inv) (g : Group) : (clearPending g s).Inv :=
  { h with pendArmed := fun k hk => h.pendArmed k (by simp_all) }

/-- Re-arming drops the flags of the groups it leaves with no armed line (R43). -/
theorem applyArming (h : s.Inv) {b : Byte} {m : CaptureMode} (hb : captureMode? s.params b = some m) :
    (applyArming b { s with catchCode := b }).Inv :=
  { h with
    catchLegal := ⟨m, captureMode?_eq_some_iff.mp hb⟩
    armOfCatch := rfl
    pendArmed := fun g hg => (Bool.and_eq_true_iff.mp ((pending_pendingOf _ g).symm.trans hg)).1 }

/-- An edge raises the flag of a group with an armed line only (R43, 41_capture.md R164). -/
theorem pins (h : s.Inv) {pv : Lines} {t : State} (ht : execPins pv s = .next t) : t.Inv := by
  cases ht
  refine { h with pendArmed := fun g hg => ?_, rawFits := pvRaw_lt _ pv, strapFits := pvStrap_lt _ pv }
  simp only [pending_pendingOf, Bool.or_eq_true] at hg
  exact hg.elim (h.pendArmed g) groupArmed_of_groupEdge

/-- Every flag that REINIT keeps is of a group with a line, and REINIT arms all lines (R240). -/
theorem reinitState (h : s.Inv) : (reinitState s).Inv := by
  rw [reinitState_eq]
  refine { powerOn_inv s.params with pendArmed := fun g hg => ?_, rawFits := h.rawFits, strapFits := h.strapFits }
  exact groupArmed_replicate_both (h.pendArmed g hg)

/-- The action of the mode in force arms the timer in a pulse mode only, with its duration (42_output.md R204). -/
theorem outputAction (h : s.Inv) : (outputAction s.omode s).Inv := by
  unfold Machine.outputAction
  split
  case h_1 | h_5 => exact h
  case h_2 | h_3 => exact h.setOut _
  case h_4 w hw => exact (h.setOut 1#1).timerArm (outputMode?_eq_some_iff.mp hw)

theorem notifyIfEnabled (h : s.Inv) (v : Half) : (notifyIfEnabled v s).Inv := by
  unfold Machine.notifyIfEnabled
  split
  · exact h.emitNotify _ v
  · exact h

theorem takeSample (h : s.Inv) : (takeSample s).Inv :=
  ((h.with_instate _).outputAction).notifyIfEnabled _

theorem leavePulse (h : s.Inv) : (leavePulse s).Inv := by
  unfold Machine.leavePulse
  split
  · exact h.timerDisarm.setOut _
  · exact h

/-- OMODE may change while no timer is armed (R46). -/
theorem with_omode (h : s.Inv) {b : Byte} {m : OutputMode} (hb : outputMode? s.params b = some m)
    (idle : s.tmr = .idle) : { s with omode := b }.Inv :=
  { h with
    omodeLegal := ⟨m, outputMode?_eq_some_iff.mp hb⟩
    timerOfPulse := fun us hus => by simp [idle] at hus }

theorem modeEntry (h : s.Inv) (m : OutputMode) : (modeEntry m s).Inv := by
  cases m with
  | notUsed | toggle => exact h
  | mirrorInput0 => exact h.setOut _
  | pulse w => exact h.timerDisarm.setOut _

/-- Leaving the old mode disarms its timer before OMODE changes (42_output.md R210, R211). -/
theorem enterOutputMode (h : s.Inv) {b : Byte} {m : OutputMode} (hb : outputMode? s.params b = some m) :
    (enterOutputMode b m s).Inv :=
  (h.leavePulse.with_omode (by simpa using hb) (leavePulse_tmr s)).modeEntry m

theorem writeHandler (h : s.Inv) {r : Register} {bytes : List Byte} {t : State}
    (ht : writeHandler r bytes s = .ok t) : t.Inv := by
  obtain ⟨-, rfl⟩ | ⟨-, ⟨m, hm⟩, rfl⟩ | ⟨m, -, hm, rfl⟩ | ⟨-, rfl⟩ := writeHandler_cases ht
  · exact h.setOut _
  · exact h.applyArming hm
  · exact h.enterOutputMode hm
  · exact h.with_even _

end State.Inv

/-! ## Every step keeps the invariant -/

theorem Effect.keeps_inv {i : Instr} {s t : State} (e : Effect i s t) (h : s.Inv) : t.Inv := by
  cases e with
  | answered r host next => exact next ▸ h.respond r
  | wrote r bytes u host what handler next => exact next ▸ (h.writeHandler handler).respond _
  | reinit kind next => exact next ▸ h.reinitState.respond _
  | pins pv what next => exact h.pins next
  | edgeSample g what kind set next => exact next ▸ (h.clearPending g).takeSample
  | edgeOnly g what kind set next => exact next ▸ h.clearPending g
  | tickSample kind due next => exact next ▸ h.takeSample.with_phase (by simp [nextPhase_lt])
  | tickOnly kind due next => exact next ▸ h.with_phase (nextPhase_lt _ _)
  | second kind next => exact next ▸ h.with_phase (Nat.two_pow_pos _)
  | fire kind armed next => exact next ▸ (h.setOut _).timerDisarm
  | safe kind next => exact next ▸ h.timerDisarm.setOut _

/-- Settles O13: a step runs one instruction (`step_next`), and whatever that did (`exec_effect`) keeps every
clause. -/
theorem stepKeepsTheInvariant : Obligations.StepKeepsTheInvariant := by
  intro s t h hstep
  obtain ⟨f, rest, i, -, -, ht⟩ := step_next hstep
  exact (exec_effect ht).keeps_inv (h.with_inputs rest)

/-! ## The writer matrix (R50) -/

/-- The pulse codes are those of the pulse modes (30_encoding.md R97). -/
theorem isPulseCode_outputCode (p : Params) (w : PulseWidth) :
    Spec.IsPulseCode p (outputCode p (.pulse w)) := by
  cases w <;> simp [Spec.IsPulseCode, outputCode]

/-- A sample touches the timer in a pulse mode only (42_output.md R204). -/
theorem isPulseCode_of_takeSample_tmr_ne {s : State} (h : (takeSample s).tmr ≠ s.tmr) :
    Spec.IsPulseCode s.params s.omode := by
  rw [takeSample_tmr, outputAction] at h
  split at h
  case h_4 w hw => exact outputMode?_eq_some_iff.mp hw ▸ isPulseCode_outputCode s.params w
  all_goals exact absurd rfl h

/-- Settles O46, by what the step did (`exec_effect`): an element it changed has its kind in the element's row.
A handler step changes its own group's flag only, and a sample the timer in a pulse mode only. -/
theorem onlyTheListedStepsWriteAnElement : Obligations.OnlyTheListedStepsWriteAnElement := by
  intro i s t wf ht
  cases exec_effect ht with
  | answered r host next => simp [next]
  | wrote r bytes u host what handler next =>
    have kind : i.kind = .write r := what.resolve_right fun ill => by simp [wf] at ill
    obtain ⟨rfl, rfl⟩ | ⟨rfl, -, rfl⟩ | ⟨m, rfl, -, rfl⟩ | ⟨rfl, rfl⟩ := writeHandler_cases handler <;>
      simp [next, kind]
  | reinit kind next => simp [next, kind, reinitState]
  | pins pv what next =>
    cases next
    simp [what, Instr.kind]
  | edgeSample g what kind set next =>
    have timer := @isPulseCode_of_takeSample_tmr_ne (clearPending g s)
    simpa [next, kind, StepKind.maySample] using ⟨fun k _ => Eq.symm, timer⟩
  | edgeOnly g what kind set next =>
    simpa [next, kind] using fun k _ => Eq.symm
  | tickSample kind due next =>
    simpa [next, kind, StepKind.maySample] using @isPulseCode_of_takeSample_tmr_ne s
  | tickOnly kind due next => simp [next, kind]
  | second kind next => simp [next, kind]
  | fire kind armed next => simp [next, kind]
  | safe kind next => simp [next, kind]

/-! ## Forgetting the strap bits (R39, R40) -/

@[simp] theorem forgetStraps_params (s : State) : (forgetStraps s).params = s.params := rfl
@[simp] theorem forgetStraps_catchCode (s : State) : (forgetStraps s).catchCode = s.catchCode := rfl
@[simp] theorem forgetStraps_instate (s : State) :
    (forgetStraps s).instate = s.instate &&& inputMask s.params := rfl
@[simp] theorem forgetStraps_pend (s : State) : (forgetStraps s).pend = s.pend := rfl
@[simp] theorem forgetStraps_tmr (s : State) : (forgetStraps s).tmr = s.tmr := rfl
@[simp] theorem forgetStraps_raw (s : State) : (forgetStraps s).raw = s.raw := rfl

@[simp] theorem and_inputMask_idem (p : Params) (v : Half) :
    v &&& inputMask p &&& inputMask p = v &&& inputMask p := by
  rw [BitVec.and_assoc, BitVec.and_self]

@[simp] theorem forgetInResponse_idem (p : Params) (r : Response) :
    forgetInResponse p (forgetInResponse p r) = forgetInResponse p r := by
  cases r <;> simp [forgetInResponse]

@[simp] theorem forgetStraps_idem (s : State) : forgetStraps (forgetStraps s) = forgetStraps s := by
  simp [forgetStraps]

/-! ### Operations that read no strap bit commute with forgetting them -/

theorem forgetStraps_respond (r : Response) (s : State) :
    forgetStraps (respond r s) = respond (forgetInResponse s.params r) (forgetStraps s) := by
  simp [forgetStraps, respond]

theorem forgetStraps_emitNotify (a : Byte) (v : Half) (s : State) :
    forgetStraps (emitNotify a v s) = emitNotify a (v &&& inputMask s.params) (forgetStraps s) := by
  simp [forgetStraps, emitNotify]

theorem forgetStraps_notifyIfEnabled (v : Half) (s : State) : forgetStraps (notifyIfEnabled v s) =
    notifyIfEnabled (v &&& inputMask s.params) (forgetStraps s) := by
  rw [notifyIfEnabled, apply_ite forgetStraps, forgetStraps_emitNotify]
  rfl

theorem forgetStraps_outputAction (c : Byte) (s : State) :
    forgetStraps (outputAction c s) = outputAction c (forgetStraps s) := by
  simp only [outputAction, forgetStraps_params]
  split <;> rfl

theorem forgetStraps_enterOutputMode (c : Byte) (m : OutputMode) (s : State) :
    forgetStraps (enterOutputMode c m s) = enterOutputMode c m (forgetStraps s) := by
  have leave : forgetStraps (leavePulse s) = leavePulse (forgetStraps s) := apply_ite _ _ _ _
  rw [enterOutputMode, enterOutputMode, ← leave]
  cases m <;> rfl

theorem writeHandler_forgetStraps (r : Register) (bytes : List Byte) (s : State) :
    writeHandler r bytes (forgetStraps s) = (writeHandler r bytes s).map forgetStraps := by
  cases r with
  | inputCatchMode =>
    simp only [writeHandler, writeInputCatchMode, forgetStraps_params]
    split <;> rfl
  | outputMode =>
    simp only [writeHandler, writeOutputMode, forgetStraps_params]
    split
    · exact congrArg Except.ok (forgetStraps_enterOutputMode _ _ s).symm
    · rfl
  | _ => rfl

/-! ### Operations whose result does not tell the strap bits apart -/

/-- Forgetting the strap bits before the operation changes nothing that is left when they are forgotten after it. -/
def StrapBlind (f : State → State) : Prop := ∀ s, forgetStraps (f (forgetStraps s)) = forgetStraps (f s)

theorem StrapBlind.of_commute {f : State → State} (h : ∀ s, forgetStraps (f s) = f (forgetStraps s)) :
    StrapBlind f := fun s => by
  rw [h, h, forgetStraps_idem]

theorem StrapBlind.id : StrapBlind fun s => s := forgetStraps_idem

theorem StrapBlind.comp {f g : State → State} (hg : StrapBlind g) (hf : StrapBlind f) :
    StrapBlind fun s => g (f s) := fun s => by
  rw [← hg, hf s, hg]

/-- A choice that the strap bits do not decide. -/
theorem StrapBlind.ite {c : State → Prop} [∀ s, Decidable (c s)] {f g : State → State}
    (hc : ∀ s, c (forgetStraps s) ↔ c s) (hf : StrapBlind f) (hg : StrapBlind g) :
    StrapBlind fun s => if c s then f s else g s := fun s => by
  by_cases h : c s
  · simpa only [if_pos h, if_pos ((hc s).mpr h)] using hf s
  · simpa only [if_neg h, if_neg (mt (hc s).mp h)] using hg s

/-- The new snapshot is the inputs' once the strap bits are forgotten. -/
theorem forgetStraps_takeSample (s : State) : forgetStraps (takeSample s) =
    notifyIfEnabled (~~~s.raw &&& inputMask s.params)
      (outputAction s.omode { forgetStraps s with instate := ~~~s.raw &&& inputMask s.params }) := by
  rw [takeSample, forgetStraps_notifyIfEnabled, forgetStraps_outputAction, outputAction_params,
    ← mkSnapshot_and_inputMask]
  rfl

theorem takeSample_blind : StrapBlind takeSample := fun s => by
  rw [forgetStraps_takeSample, forgetStraps_takeSample, forgetStraps_idem]
  rfl

/-- The filter compares the inputs' bits only (41_capture.md R167). -/
theorem acceptSample_blind (filtered : Bool) : StrapBlind (acceptSample filtered) :=
  .ite (fun s => by simp [mkSnapshot_and_inputMask]) .id takeSample_blind

theorem edgeG0Body_blind : StrapBlind edgeG0Body := fun s => by
  have sample := acceptSample_blind true
  unfold edgeG0Body
  rw [forgetStraps_params, forgetStraps_catchCode]
  split
  case h_1 => exact sample s
  case h_2 => exact StrapBlind.ite (c := fun u => u.raw.getLsbD 0 = true) (fun _ => .rfl) sample .id s
  case h_3 => exact StrapBlind.ite (c := fun u => u.raw.getLsbD 0 = true) (fun _ => .rfl) .id sample s
  all_goals exact StrapBlind.id s

theorem edgeOtherBody_blind : StrapBlind edgeOtherBody :=
  .ite (fun _ => .rfl) (acceptSample_blind true) .id

theorem respond_blind (r : Response) : StrapBlind (respond r) := fun s => by
  simp [forgetStraps_respond]

theorem failCommand_blind (reason : FailReason) : StrapBlind (failCommand reason) := respond_blind (.fail reason)

/-- Only a READ of INPUTS_STATE gives out the bits above the inputs (R39). -/
theorem forgetInResponse_readHandler (r : Register) (s : State) :
    forgetInResponse s.params (.ok (readHandler r (forgetStraps s))) =
      forgetInResponse s.params (.ok (readHandler r s)) := by
  cases r with
  | inputsState => simp [readHandler, readInputsState, forgetInResponse]
  | _ => rfl

theorem readRegister_blind (r : Register) (typ : Byte) : StrapBlind (readRegister r typ) :=
  .ite (fun _ => .rfl) (fun s => by simp [forgetStraps_respond, forgetInResponse_readHandler])
    (failCommand_blind _)

theorem writeRegister_blind (r : Register) (typ count : Byte) (wdata : Half) :
    StrapBlind (writeRegister r typ count wdata) := by
  refine .ite (fun _ => .rfl) (.ite (fun _ => .rfl) (fun s => ?_) (failCommand_blind _)) (failCommand_blind _)
  rw [writeHandler_forgetStraps]
  cases writeHandler r (payload wdata) s with
  | error reason => exact failCommand_blind reason s
  | ok t => exact respond_blind (.ok 0#16) t

theorem dispatchRead_blind (addr typ : Byte) : StrapBlind (dispatchRead addr typ) := fun s => by
  unfold dispatchRead
  rw [forgetStraps_params]
  cases registerAt s.params addr with
  | none => exact failCommand_blind _ s
  | some r => exact readRegister_blind r typ s

theorem dispatchWrite_blind (addr typ count : Byte) (wdata : Half) :
    StrapBlind (dispatchWrite addr typ count wdata) := fun s => by
  unfold dispatchWrite
  rw [forgetStraps_params]
  cases registerAt s.params addr with
  | none => exact failCommand_blind _ s
  | some r => exact writeRegister_blind r typ count wdata s

/-! ### Instructions -/

/-- What is left of an outcome when the strap bits of its state are forgotten. -/
def forgetOutcome : Host.Outcome State Fault Refusal → Host.Outcome State Fault Refusal
  | .next s => .next (forgetStraps s)
  | .fault r => .fault r
  | .refused r => .refused r

/-- Forgetting the strap bits before the step changes nothing that is left of its outcome. -/
def StepStrapBlind (m : State → Host.Outcome State Fault Refusal) : Prop :=
  ∀ s, forgetOutcome (m (forgetStraps s)) = forgetOutcome (m s)

theorem StrapBlind.next {f : State → State} (h : StrapBlind f) : StepStrapBlind fun s => .next (f s) :=
  fun s => congrArg Host.Outcome.next (h s)

theorem runEdgeHandler_blind (g : Group) {body : State → State} (h : StrapBlind body) :
    StepStrapBlind (runEdgeHandler g body) := fun s => by
  have step : StrapBlind fun u => body (clearPending g u) := h.comp (.of_commute fun _ => rfl)
  unfold runEdgeHandler
  rw [forgetStraps_pend]
  split
  · exact step.next s
  · rfl

theorem execPulseFire_blind : StepStrapBlind execPulseFire := fun s => by
  unfold execPulseFire
  rw [forgetStraps_tmr]
  split <;> simp [forgetOutcome, forgetStraps]

theorem execBaseTick_blind : StepStrapBlind execBaseTick := fun s => by
  have count : StrapBlind fun u => { u with phase := nextPhase u.params u.phase } := .of_commute fun _ => rfl
  exact (count.comp (.ite (c := fun u => tickSamples u = true) (fun _ => .rfl) (acceptSample_blind false) .id)).next s

theorem execPins_blind (pv : Lines) : StepStrapBlind (execPins pv) := fun s => by
  simp [execPins, forgetOutcome, forgetStraps]

theorem exec_blind (i : Instr) : StepStrapBlind (exec i) := by
  cases i with
  | readOutsideWindow _ addr typ => exact (dispatchRead_blind addr typ).next
  | writeOutsideWindow _ addr typ count wdata => exact (dispatchWrite_blind addr typ count wdata).next
  | reinit => exact ((respond_blind (.ok 0#16)).comp (.of_commute (f := reinitState) fun _ => rfl)).next
  | reservedCmd0 | reservedCmd4to7 | reservedCmd8toF => exact (failCommand_blind .invalidCommand).next
  | pins pv => exact execPins_blind pv
  | edgeG0 => exact runEdgeHandler_blind .g0 edgeG0Body_blind
  | edgeG1 => exact runEdgeHandler_blind .g1 edgeOtherBody_blind
  | edgeG2 => exact runEdgeHandler_blind .g2 edgeOtherBody_blind
  | baseTick => exact execBaseTick_blind
  | pulseFire => exact execPulseFire_blind
  | secondTick => exact (StrapBlind.of_commute (f := fun s => { s with phase := 0 }) fun _ => rfl).next
  | forceSafe => exact (StrapBlind.of_commute (f := fun s => setOut 0#1 (timerDisarm s)) fun _ => rfl).next
  | writeInputsState | writeOutputs | writeInputCatchMode | writeOutputMode | writeReserved0
  | writeReserved1 | writeReserved2 | writeReserved3 | writeEvntEnable => exact (writeRegister_blind _ _ _ _).next
  | _ => exact (readRegister_blind _ _).next

/-- States that agree once the strap bits are forgotten have outcomes that do. -/
theorem exec_alike (i : Instr) {s t : State} (h : forgetStraps s = forgetStraps t) :
    forgetOutcome (exec i s) = forgetOutcome (exec i t) := by
  rw [← exec_blind i s, h, exec_blind i t]

/-- The strap bits of a pin word go to the strap lines alone (30_encoding.md R101, 41_capture.md R164). -/
theorem exec_pins_alike {pv qv : Lines} {s : State}
    (h : pv &&& inputMask s.params = qv &&& inputMask s.params) :
    forgetOutcome (exec (.pins pv) s) = forgetOutcome (exec (.pins qv) s) := by
  simp [exec, execPins, forgetOutcome, forgetStraps, pvRaw, h]

theorem next_of_alike {o o' : Host.Outcome State Fault Refusal} {s' : State}
    (h : forgetOutcome o = forgetOutcome o') (ho : o = .next s') :
    ∃ t', o' = .next t' ∧ forgetStraps s' = forgetStraps t' := by
  subst ho
  cases o' with
  | next t' => exact ⟨t', rfl, Host.Outcome.next.inj h⟩
  | fault | refused => cases h

/-- Settles O51: every step is blind to the strap bits of the state (`exec_blind`), and PINS to those of its word. -/
theorem strapBitsInfluenceNothingElse : Obligations.StrapBitsInfluenceNothingElse :=
  ⟨fun i _ _ _ h => next_of_alike (exec_alike i h),
    fun _ qv _ _ _ h hv => next_of_alike ((exec_pins_alike hv).trans (exec_alike (.pins qv) h))⟩

end Sys2Proof.Machine

/-! # The register bank on the port (20_memory.md): proofs

How a 16-bit value is cut into bytes on the command port and put together again. -/

namespace Sys2Proof.Machine

/-! ## Byte order (R73, R98) -/

theorem toNat_lowByte (v : Half) : (v.extractLsb' 0 8).toNat = v.toNat % 256 :=
  BitVec.extractLsb'_toNat 0 8 v

/-- The high byte needs no reduction: a 16-bit value has no bits above it. -/
theorem toNat_highByte (v : Half) : (v.extractLsb' 8 8).toNat = v.toNat / 256 := by
  have fits : v.toNat / 256 < 256 := Nat.div_lt_of_lt_mul v.isLt
  rw [BitVec.extractLsb'_toNat, Nat.shiftRight_eq_div_pow]
  exact Nat.mod_eq_of_lt fits

theorem toNat_portBytes (v : Half) :
    (portBytes v).map BitVec.toNat = [v.toNat % 256, v.toNat / 256] := by
  simp only [portBytes, List.map, toNat_lowByte, toNat_highByte]

@[simp] theorem elementU8_payload (v : Half) : elementU8 (payload v) = v.extractLsb' 0 8 := rfl

theorem elementU16_pair (b0 b1 : Byte) : elementU16 [b0, b1] = b1 ++ b0 := rfl

/-- The payload loses nothing: its two bytes, put together again, are WDATA. -/
@[simp] theorem elementU16_payload (v : Half) : elementU16 (payload v) = v :=
  calc elementU16 (payload v)
    _ = v.extractLsb' 8 8 ++ v.extractLsb' 0 8 := elementU16_pair _ _
    _ = v.extractLsb' 0 16 := BitVec.extractLsb'_append_extractLsb'_eq_extractLsb' rfl
    _ = v := BitVec.extractLsb'_eq_self

/-- Settles O6: the port's bytes are `v mod 256` and `v / 256`, and the u16 element rebuilds the value from them. -/
theorem portBytesAreLittleEndian : Obligations.PortBytesAreLittleEndian := fun v =>
  ⟨toNat_portBytes v, rfl, by rw [elementU8_payload, toNat_lowByte], elementU16_payload v, elementU16_pair⟩

end Sys2Proof.Machine

/-! # Encoding (30_encoding.md): proofs

The words of the port against the instructions: what each command word and each event label decodes to, that
decoding and encoding undo each other, and what becomes of an input that is no word of its port. -/

namespace Sys2Proof.Machine

/-! ## Decoding an encoded instruction (R91, R92, R95) -/

/-- A word with CMD = 1 is read as its other fields. -/
theorem decode_readWord (p : Params) (rsv : BitVec 4) (a t n : Byte) :
    decode p (.command (hcw 1#4 rsv a t n).toNat 0) = .ok (decodeRead p rsv a t n) := by
  simp [decodeCommand_read]

/-- A word with CMD = 2 is read as its other fields and the data word. -/
theorem decode_writeWord (p : Params) (rsv : BitVec 4) (a t n : Byte) (w : Half) :
    decode p (.command (hcw 2#4 rsv a t n).toNat w.toNat) = .ok (decodeWrite p rsv a t n w) := by
  simp [decodeCommand_write]

theorem decodeRead_outside {p : Params} {a : Byte} (h : validAddr p a = false) (rsv : BitVec 4) (t n : Byte) :
    decodeRead p rsv a t n = .readOutsideWindow rsv a t n := by
  simp [decodeRead, registerAt_eq_none_of_not_valid h]

theorem decodeWrite_outside {p : Params} {a : Byte} (h : validAddr p a = false) (rsv : BitVec 4) (t n : Byte)
    (w : Half) : decodeWrite p rsv a t n w = .writeOutsideWindow rsv a t n w := by
  simp [decodeWrite, registerAt_eq_none_of_not_valid h]

/-- Settles O2, by the kinds of row: a register's row is found again by its address (`registerAt_registerAddr`), an
outside-window row by well-formedness, a row without an address by its CMD or its label. -/
theorem decodeUndoesEncode : Obligations.DecodeUndoesEncode := by
  intro p i wf
  cases i with
  | readOutsideWindow rsv a t n =>
    have outside : validAddr p a = false := by simpa [Instr.WellFormed, Instr.wellFormed] using wf
    rw [encode, decode_readWord, decodeRead_outside outside]
  | writeOutsideWindow rsv a t n w =>
    have outside : validAddr p a = false := by simpa [Instr.WellFormed, Instr.wellFormed] using wf
    rw [encode, decode_writeWord, decodeWrite_outside outside]
  | reinit rest => simp [encode, decodeCommand_reinit]
  | reservedCmd0 rest => simp [encode, decodeCommand_reserved0]
  | reservedCmd4to7 low rest => simp [encode, decodeCommand_reserved4to7 p low]
  | reservedCmd8toF low rest => simp [encode, decodeCommand_reserved8toF p low]
  | pins pv => exact decode_pins (of_decide_eq_true wf)
  | edgeG0 | edgeG1 | edgeG2 | baseTick | secondTick | pulseFire | forceSafe =>
    simp [encode, decodeEvent]
  | writeInputsState | writeOutputs | writeInputCatchMode | writeOutputMode | writeReserved0
  | writeReserved1 | writeReserved2 | writeReserved3 | writeEvntEnable =>
    rw [encode, encodeWrite, decode_writeWord, decodeWrite, registerAt_registerAddr]
  | _ => rw [encode, encodeRead, decode_readWord, decodeRead, registerAt_registerAddr]

/-! ## Encoding a decoded command word (R91, R102) -/

/-- What a READ decodes to keeps every field: the address is the one of the register it selected. -/
theorem encode_decodeRead (p : Params) (rsv : BitVec 4) (a t n : Byte) :
    encode p (decodeRead p rsv a t n) = .command (hcw 1#4 rsv a t n).toNat 0 := by
  unfold decodeRead
  split
  case h_1 => rfl
  all_goals
    next h => rw [encode, encodeRead, registerAddr_of_registerAt h]

/-- As `encode_decodeRead`, with the data word. -/
theorem encode_decodeWrite (p : Params) (rsv : BitVec 4) (a t n : Byte) (w : Half) :
    encode p (decodeWrite p rsv a t n w) = .command (hcw 2#4 rsv a t n).toNat w.toNat := by
  unfold decodeWrite
  split
  case h_1 => rfl
  all_goals
    next h => rw [encode, encodeWrite, registerAddr_of_registerAt h]

/-- The words of what a command word decodes to: itself, and the data word if it is a WRITE. -/
theorem encode_decodeCommand (p : Params) (h : CommandWord) (w : Half) :
    encode p (decodeCommand p h w) = .command h.toNat (if hcwCmd h = 2#4 then w.toNat else 0) := by
  have fields := hcw_of_fields h
  have rest := hcwOfRest_of_fields h
  have not4to7 : ∀ low : BitVec 2, 1#2 ++ low ≠ 2#4 := by decide
  have not8toF : ∀ low : BitVec 3, 1#1 ++ low ≠ 2#4 := by decide
  obtain e | e | e | e | ⟨low, e⟩ | ⟨low, e⟩ := cmd_cases (hcwCmd h) <;> rw [e] at fields rest ⊢
  · rw [decodeCommand_read p e, encode_decodeRead, fields]; rfl
  · rw [decodeCommand_write p e, encode_decodeWrite, fields]; rfl
  · rw [decodeCommand_reinit p e, encode, rest]; rfl
  · rw [decodeCommand_reserved0 p e, encode, rest]; rfl
  · rw [decodeCommand_reserved4to7 p low e, encode, rest, if_neg (not4to7 low)]
  · rw [decodeCommand_reserved8toF p low e, encode, rest, if_neg (not8toF low)]

/-- Settles O3: the word comes back whatever CMD is, and the data word when CMD is WRITE. -/
theorem encodeRebuildsTheCommandWord : Obligations.EncodeRebuildsTheCommandWord :=
  fun p h w => ⟨_, encode_decodeCommand p h w, fun e => if_pos e, fun e => if_neg e⟩

/-! ## What a command word decodes to, by CMD (R92, R102) -/

theorem decodeRead_wellFormed (p : Params) (rsv : BitVec 4) (a t n : Byte) :
    (decodeRead p rsv a t n).WellFormed p := by
  unfold decodeRead
  split
  case h_1 h => simp [Instr.WellFormed, Instr.wellFormed, (registerAt_eq_none_iff p a).mp h]
  all_goals rfl

theorem decodeWrite_wellFormed (p : Params) (rsv : BitVec 4) (a t n : Byte) (w : Half) :
    (decodeWrite p rsv a t n w).WellFormed p := by
  unfold decodeWrite
  split
  case h_1 h => simp [Instr.WellFormed, Instr.wellFormed, (registerAt_eq_none_iff p a).mp h]
  all_goals rfl

theorem decodeCommand_wellFormed (p : Params) (h : CommandWord) (w : Half) :
    (decodeCommand p h w).WellFormed p := by
  unfold decodeCommand
  split
  case h_2 => exact decodeRead_wellFormed ..
  case h_3 => exact decodeWrite_wellFormed ..
  all_goals rfl

/-- The statement's word and the encoder's are one word (R91). -/
theorem wordOf_eq_hcw (c rsv : BitVec 4) (a t n : Byte) : Spec.wordOf c rsv a t n = hcw c rsv a t n := rfl

theorem validAddr_iff_inWindow {p : Params} {a : Byte} : validAddr p a = true ↔ Spec.inWindow p a :=
  decide_eq_true_iff

theorem validAddr_eq_false_of_not_inWindow {p : Params} {a : Byte} (h : ¬ Spec.inWindow p a) :
    validAddr p a = false :=
  decide_eq_false h

theorem kind_decodeRead (p : Params) (r : Register) (rsv : BitVec 4) (t n : Byte) :
    (decodeRead p rsv (registerAddr p r) t n).kind = .read := by
  rw [decodeRead, registerAt_registerAddr]
  cases r <;> rfl

theorem kind_decodeWrite (p : Params) (r : Register) (rsv : BitVec 4) (t n : Byte) (w : Half) :
    (decodeWrite p rsv (registerAddr p r) t n w).kind = .write r := by
  rw [decodeWrite, registerAt_registerAddr]
  cases r <;> rfl

/-- CMD 0 and CMD 4 to 15 are the reserved ones. -/
theorem kind_decodeCommand_reserved (p : Params) {h : CommandWord}
    (reserved : hcwCmd h = 0#4 ∨ 4 ≤ (hcwCmd h).toNat) (w : Half) :
    (decodeCommand p h w).kind = .reservedCommand := by
  obtain e | e | e | e | ⟨low, e⟩ | ⟨low, e⟩ := cmd_cases (hcwCmd h)
  · simp [e] at reserved
  · simp [e] at reserved
  · simp [e] at reserved
  · rw [decodeCommand_reserved0 p e]; rfl
  · rw [decodeCommand_reserved4to7 p low e]; rfl
  · rw [decodeCommand_reserved8toF p low e]; rfl

/-- Settles O4: every word decodes (`decode_command`), and its kind follows from CMD and, for a READ or a WRITE,
from whether a register stands at ADDR. -/
theorem commandWordsDecodeByCmdAlone : Obligations.CommandWordsDecodeByCmdAlone := by
  refine ⟨fun p h w => ⟨_, decode_command p h w, decodeCommand_wellFormed p h w, rfl⟩, ?_⟩
  intro p c rsv a t n w
  simp only [wordOf_eq_hcw]
  refine ⟨?_, ?_, ?_, ?_, fun reserved => ?_⟩
  · rintro rfl inside
    obtain ⟨r, rfl⟩ := exists_registerAddr (validAddr_iff_inWindow.mpr inside)
    simp [decodeCommand_read, kind_decodeRead]
  · rintro rfl inside
    obtain ⟨r, rfl⟩ := exists_registerAddr (validAddr_iff_inWindow.mpr inside)
    exact ⟨r, registerAddr_toNat p r, by simp [decodeCommand_write, kind_decodeWrite]⟩
  · intro cmd outside
    have invalid := validAddr_eq_false_of_not_inWindow outside
    obtain rfl | rfl := cmd
    · simp [decodeCommand_read, decodeRead_outside invalid, Instr.kind]
    · simp [decodeCommand_write, decodeWrite_outside invalid, Instr.kind]
  · rintro rfl
    simp [decodeCommand_reinit, Instr.kind]
  · exact kind_decodeCommand_reserved p (by simpa using reserved) w

/-! ## Table words (R91, R92, R100) -/

/-- Settles O1: each word is decoded by evaluation. -/
theorem tableWordsDecodeToTheirRows : Obligations.TableWordsDecodeToTheirRows :=
  ⟨rfl, rfl, rfl, rfl, rfl, rfl, rfl, rfl⟩

/-! ## Event labels (R100, R101) -/

/-- An event that fits its port is read by its label. -/
theorem decode_event {p : Params} {ev pv : Nat} (hev : ev < 16) (hpv : pv < 2 ^ pinBits p) :
    decode p (.event ev pv) = decodeEvent (BitVec.ofNat 4 ev) (BitVec.ofNat 16 pv) :=
  if_pos ⟨hev, hpv⟩

/-- Settles O5, label by label. -/
theorem eventLabelsNameTheirSteps : Obligations.EventLabelsNameTheirSteps := by
  intro p ev pv hev hpv
  rw [decode_event hev hpv]
  interval_cases ev <;> rfl

/-! ## Inputs that are no step (R100, R291) -/

theorem step_of_no_input {s : State} (h : s.inputs = []) : step s = .fault .noStepChosen := by
  simp [step, takeInput, h]

theorem step_of_outsidePortFormat {s : State} {f : PortInput} {rest : List PortInput}
    (hin : s.inputs = f :: rest) (hd : decode s.params f = .error .outsidePortFormat) :
    step s = .refused .outsidePortFormat := by
  simp only [step, takeInput_cons hin, hd]

theorem step_of_unnamedEventLabel {s : State} {f : PortInput} {rest : List PortInput}
    (hin : s.inputs = f :: rest) (hd : decode s.params f = .error .unnamedEventLabel) :
    step s = .refused .unnamedEventLabel := by
  simp only [step, takeInput_cons hin, hd]

theorem decode_command_tooWide (p : Params) {hcw wdata : Nat} (h : 2 ^ 32 ≤ hcw ∨ 2 ^ 16 ≤ wdata) :
    decode p (.command hcw wdata) = .error .outsidePortFormat :=
  if_neg (by omega)

theorem decode_event_tooWide {p : Params} {ev pv : Nat} (h : 2 ^ 4 ≤ ev ∨ 2 ^ pinBits p ≤ pv) :
    decode p (.event ev pv) = .error .outsidePortFormat :=
  if_neg (by omega)

/-- Labels 0 and 9 to 15 name no step. -/
theorem decode_event_unnamed {p : Params} {ev pv : Nat} (hev : ev = 0 ∨ (9 ≤ ev ∧ ev < 16))
    (hpv : pv < 2 ^ pinBits p) : decode p (.event ev pv) = .error .unnamedEventLabel := by
  rw [decode_event (by omega) hpv]
  obtain rfl | ⟨above, below⟩ := hev
  · rfl
  · interval_cases ev <;> rfl

/-- Settles O8, by why there is no step: none is chosen, the input is too wide, or its label names none. -/
theorem unreadableInputsStopByName : Obligations.UnreadableInputsStopByName := fun _ _ =>
  ⟨step_of_no_input,
    fun _ _ hin wide => step_of_outsidePortFormat hin (decode_command_tooWide _ wide),
    fun _ _ hin wide => step_of_outsidePortFormat hin (decode_event_tooWide wide),
    fun _ _ hin hpv hev => step_of_unnamedEventLabel hin (decode_event_unnamed hev hpv)⟩

end Sys2Proof.Machine

/-! # The register bank (40_register_bank.md): proofs

What a READ and a WRITE of each register answer, what an accepted WRITE changes, and that a command that fails
changes nothing. -/

namespace Sys2Proof.Machine

/-! ## READ of a register (R121, R123 to R139) -/

/-- The two outcomes of a READ, by its TYPE. -/
theorem readRegister_outcome (r : Register) (typ : Byte) (s : State) :
    (typ = elementTag s.params r →
      (.next (readRegister r typ s) : Host.Outcome State Fault Refusal) =
        .next (Spec.answered (.ok (readHandler r s)) s)) ∧
    (typ ≠ elementTag s.params r →
      (.next (readRegister r typ s) : Host.Outcome State Fault Refusal) =
        .next (Spec.answered (.fail .typeMismatch) s)) :=
  ⟨fun h => congrArg _ (if_pos h), fun h => congrArg _ (if_neg h)⟩

/-- The output bit is zero-extended to a byte and then to RDATA, which is one extension. -/
theorem readHandler_outputs (s : State) : readHandler .outputs s = s.out.zeroExtend 16 := by
  simp [readHandler, readOutputs, rdataOfByte]

/-- Settles O15: the read handler gives INSTATE. -/
theorem readInputsStateAnswersTheSnapshot : Obligations.ReadInputsStateAnswersTheSnapshot :=
  fun _ typ _ s => readRegister_outcome .inputsState typ s

/-- Settles O16: the read handler gives OUT (`readHandler_outputs`). -/
theorem readOutputsAnswersTheOutputBit : Obligations.ReadOutputsAnswersTheOutputBit :=
  fun _ typ _ s => readHandler_outputs s ▸ readRegister_outcome .outputs typ s

/-- Settles O20: the read handler gives EVEN. -/
theorem readEvntEnableAnswersTheMask : Obligations.ReadEvntEnableAnswersTheMask :=
  fun _ typ _ s => readRegister_outcome .evntEnable typ s

/-- Settles O19: the read handler of the four reserved registers is one constant. -/
theorem readReservedAnswersZero : Obligations.ReadReservedAnswersZero := by
  intro rsv typ count s i hi
  simp only [List.mem_cons, List.not_mem_nil, or_false] at hi
  obtain rfl | rfl | rfl | rfl := hi
  · exact readRegister_outcome .reserved0 typ s
  · exact readRegister_outcome .reserved1 typ s
  · exact readRegister_outcome .reserved2 typ s
  · exact readRegister_outcome .reserved3 typ s

/-! ### The mode codes are legal (R34, R35) -/

theorem legalCapture_iff {p : Params} {b : Byte} :
    Spec.legalCapture p b ↔ ∃ m, captureMode? p b = some m := mem_catchCodes_iff

theorem legalOutput_iff {p : Params} {b : Byte} :
    Spec.legalOutput p b ↔ ∃ m, outputMode? p b = some m := mem_omodeCodes_iff

theorem State.Inv.catchCode_legal {s : State} (h : s.Inv) : Spec.legalCapture s.params s.catchCode :=
  legalCapture_iff.mpr (h.catchLegal.imp fun _ => captureMode?_eq_some_iff.mpr)

theorem State.Inv.omode_legal {s : State} (h : s.Inv) : Spec.legalOutput s.params s.omode :=
  legalOutput_iff.mpr (h.omodeLegal.imp fun _ => outputMode?_eq_some_iff.mpr)

theorem toNat_rdataOfByte (b : Byte) : (rdataOfByte b).toNat = b.toNat :=
  BitVec.toNat_setWidth_of_le (by decide)

/-- The default codes of CaptureMode are 0 to 8. -/
theorem le_of_legalCapture_default {b : Byte} (h : Spec.legalCapture defaultParams b) : b.toNat ≤ 8 := by
  rw [legalCapture_iff, ← Option.isSome_iff_exists, captureMode?_default] at h
  exact of_decide_eq_true h

/-- The default codes of OutputMode are 0 to 7. -/
theorem le_of_legalOutput_default {b : Byte} (h : Spec.legalOutput defaultParams b) : b.toNat ≤ 7 := by
  rw [legalOutput_iff, ← Option.isSome_iff_exists, outputMode?_default] at h
  exact of_decide_eq_true h

/-- Settles O17: the read handler gives CATCH, which the invariant holds to a legal code. -/
theorem readInputCatchModeAnswersTheCode : Obligations.ReadInputCatchModeAnswersTheCode := by
  intro rsv typ count s
  obtain ⟨typed, mistyped⟩ := readRegister_outcome .inputCatchMode typ s
  refine ⟨typed, mistyped, State.Inv.catchCode_legal, fun h params => ?_⟩
  exact (toNat_rdataOfByte _).trans_le (le_of_legalCapture_default (params ▸ h.catchCode_legal))

/-- Settles O18: the read handler gives OMODE, which the invariant holds to a legal code. -/
theorem readOutputModeAnswersTheCode : Obligations.ReadOutputModeAnswersTheCode := by
  intro rsv typ count s
  obtain ⟨typed, mistyped⟩ := readRegister_outcome .outputMode typ s
  refine ⟨typed, mistyped, State.Inv.omode_legal, fun h params => ?_⟩
  exact (toNat_rdataOfByte _).trans_le (le_of_legalOutput_default (params ▸ h.omode_legal))

/-! ## READ words, by the register table (R120, R121, R141) -/

/-- The row of the register table in which a register stands (10_state.md R32). -/
def rowOf : Register → Fin 9
  | .inputsState => 0
  | .outputs => 1
  | .inputCatchMode => 2
  | .outputMode => 3
  | .reserved0 => 4
  | .reserved1 => 5
  | .reserved2 => 6
  | .reserved3 => 7
  | .evntEnable => 8

theorem registerOffset_eq_offsets (p : Params) (r : Register) : registerOffset p r = p.offsets[rowOf r] := by
  cases r <;> rfl

/-- No two rows of the table have one offset. -/
theorem offsets_inj (p : Params) {i j : Fin 9} : p.offsets[i] = p.offsets[j] ↔ i = j := by
  have key := p.offsetsDistinct.getElem_inj_iff (i := i) (j := j) (hi := by simp) (hj := by simp)
  simpa [Fin.ext_iff] using key

/-- A register's address is that of its own row and of no other. -/
theorem atRow_registerAddr (p : Params) (r : Register) (i : Fin 9) :
    Spec.AtRow p (registerAddr p r) i ↔ rowOf r = i := by
  rw [Spec.AtRow, registerAddr_toNat, registerOffset_eq_offsets, Nat.add_left_cancel_iff, Fin.val_inj, offsets_inj]

theorem tagAt_registerAddr (p : Params) (r : Register) : Spec.tagAt p (registerAddr p r) = elementTag p r := by
  cases r <;> simp [Spec.tagAt, atRow_registerAddr, rowOf, elementTag]

theorem valueAt_registerAddr (r : Register) (s : State) :
    Spec.valueAt (registerAddr s.params r) s = readHandler r s := by
  cases r with
  | outputs => simp [Spec.valueAt, atRow_registerAddr, rowOf, readHandler_outputs]
  | _ =>
    simp only [Spec.valueAt, atRow_registerAddr, rowOf, Fin.reduceEq, if_true, if_false]
    rfl

/-- At an address of the window a READ reads the register that stands there. -/
theorem dispatchRead_inside {a : Byte} {s : State} (h : Spec.inWindow s.params a) (typ : Byte) :
    ∃ r, dispatchRead a typ s = readRegister r typ s ∧ elementTag s.params r = Spec.tagAt s.params a ∧
      readHandler r s = Spec.valueAt a s := by
  obtain ⟨r, rfl⟩ := exists_registerAddr (validAddr_iff_inWindow.mpr h)
  exact ⟨r, by simp [dispatchRead], (tagAt_registerAddr s.params r).symm, (valueAt_registerAddr r s).symm⟩

theorem dispatchRead_outside {addr : Byte} {s : State} (h : ¬ Spec.inWindow s.params addr) (typ : Byte) :
    dispatchRead addr typ s = Spec.answered (.fail .invalidAddress) s := by
  rw [dispatchRead, registerAt_eq_none_of_not_valid (validAddr_eq_false_of_not_inWindow h)]
  rfl

theorem dispatchWrite_outside {addr : Byte} {s : State} (h : ¬ Spec.inWindow s.params addr) (typ count : Byte)
    (w : Half) : dispatchWrite addr typ count w s = Spec.answered (.fail .invalidAddress) s := by
  rw [dispatchWrite, registerAt_eq_none_of_not_valid (validAddr_eq_false_of_not_inWindow h)]
  rfl

/-- A READ word runs the generic dispatch at its ADDR and TYPE. -/
theorem exec_readWord (rsv : BitVec 4) (a t n : Byte) (w : Half) (s : State) :
    exec (decodeCommand s.params (Spec.wordOf 1#4 rsv a t n) w) s = .next (dispatchRead a t s) := by
  rw [wordOf_eq_hcw, decodeCommand_read _ (hcwCmd_hcw ..)]
  simp [exec_decodeRead]

/-- Settles O21: outside the window no register is found, and inside it the one that stands at ADDR is read. -/
theorem readWordsDispatchByTheTable : Obligations.ReadWordsDispatchByTheTable := by
  intro rsv a t n w s
  simp only [exec_readWord]
  refine ⟨fun outside => congrArg _ (dispatchRead_outside outside t), fun inside tag => ?_, fun inside tag => ?_⟩
  · obtain ⟨r, reads, typed, -⟩ := dispatchRead_inside inside t
    rw [reads]
    exact (readRegister_outcome r t s).2 (typed ▸ tag)
  · obtain ⟨r, reads, typed, value⟩ := dispatchRead_inside inside t
    rw [reads, ← value]
    exact (readRegister_outcome r t s).1 (typed ▸ tag)

/-- Settles O29: the dispatch finds no register at the address. -/
theorem outsideTheWindowFails : Obligations.OutsideTheWindowFails :=
  fun _ _ typ count w _ outside =>
    ⟨congrArg _ (dispatchRead_outside outside typ), congrArg _ (dispatchWrite_outside outside typ count w)⟩

/-! ## WRITE of a register (R122, R124 to R140) -/

section write

variable {r : Register} {typ count : Byte} {w : Half} {s t : State} {reason : FailReason}

theorem writeRegister_of_mistyped (h : typ ≠ elementTag s.params r) :
    writeRegister r typ count w s = Spec.answered (.fail .typeMismatch) s :=
  if_neg h

theorem writeRegister_of_miscounted (ht : typ = elementTag s.params r) (hc : count ≠ 1#8) :
    writeRegister r typ count w s = Spec.answered (.fail .elementCountMismatch) s :=
  (if_pos ht).trans (if_neg hc)

theorem writeRegister_of_ok (ht : typ = elementTag s.params r) (hc : count = 1#8)
    (h : writeHandler r (payload w) s = .ok t) :
    writeRegister r typ count w s = Spec.answered (.ok 0#16) t := by
  subst ht hc
  simp only [writeRegister, elementCount, if_true, h]
  rfl

theorem writeRegister_of_refused (ht : typ = elementTag s.params r) (hc : count = 1#8)
    (h : writeHandler r (payload w) s = .error reason) :
    writeRegister r typ count w s = Spec.answered (.fail reason) s := by
  subst ht hc
  simp only [writeRegister, elementCount, if_true, h]
  rfl

/-- A WRITE that its handler refuses fails whatever its TYPE and COUNT, whose checks come first. -/
theorem writeRegister_fails_of_refused (h : writeHandler r (payload w) s = .error reason) :
    writeRegister r typ count w s = Spec.answered (.fail
      (if typ ≠ elementTag s.params r then .typeMismatch else if count ≠ 1#8 then .elementCountMismatch
        else reason)) s := by
  split_ifs with ht hc
  · exact writeRegister_of_mistyped ht
  · exact writeRegister_of_miscounted (not_not.mp ht) hc
  · exact writeRegister_of_refused (not_not.mp ht) (not_not.mp hc) h

end write

/-- Settles O27: the write handler of INPUTS_STATE refuses every value. -/
theorem writeInputsStateAlwaysFails : Obligations.WriteInputsStateAlwaysFails :=
  fun _ _ _ _ _ => congrArg _ (writeRegister_fails_of_refused (r := .inputsState) rfl)

/-- Settles O28: the write handler of the four reserved registers refuses every value. -/
theorem writeReservedAlwaysFails : Obligations.WriteReservedAlwaysFails := by
  intro rsv typ count w s i hi
  simp only [List.mem_cons, List.not_mem_nil, or_false] at hi
  obtain rfl | rfl | rfl | rfl := hi
  · exact congrArg _ (writeRegister_fails_of_refused (r := .reserved0) rfl)
  · exact congrArg _ (writeRegister_fails_of_refused (r := .reserved1) rfl)
  · exact congrArg _ (writeRegister_fails_of_refused (r := .reserved2) rfl)
  · exact congrArg _ (writeRegister_fails_of_refused (r := .reserved3) rfl)

/-! ### OUTPUTS and EVNT_ENABLE: bit 0 of the byte (R126, R140) -/

theorem lowBit_lowByte (w : Half) : (w.extractLsb' 0 8).extractLsb' 0 1 = BitVec.ofBool (w.getLsbD 0) := by
  ext i hi
  obtain rfl : i = 0 := by omega
  simp

theorem lowByte_and_one (w : Half) : w.extractLsb' 0 8 &&& 0x01#8 = if w.getLsbD 0 then 0x01#8 else 0x00#8 := by
  rw [BitVec.and_one_eq_setWidth_ofBool_getLsbD, BitVec.getLsbD_extractLsb']
  cases w.getLsbD 0 <;> rfl

theorem writeHandler_outputs (w : Half) (s : State) :
    writeHandler .outputs (payload w) s = .ok { s with out := BitVec.ofBool (w.getLsbD 0) } := by
  rw [← lowBit_lowByte]
  rfl

theorem writeHandler_evntEnable (w : Half) (s : State) :
    writeHandler .evntEnable (payload w) s = .ok { s with even := if w.getLsbD 0 then 0x01#8 else 0x00#8 } := by
  rw [← lowByte_and_one]
  rfl

/-- Settles O23: the handler accepts every byte (`writeHandler_outputs`). -/
theorem writeOutputsStoresBitZero : Obligations.WriteOutputsStoresBitZero := fun _ _ _ w s =>
  ⟨fun ht hc => congrArg _ (writeRegister_of_ok ht hc (writeHandler_outputs w s)),
    fun ht => congrArg _ (writeRegister_of_mistyped (r := .outputs) ht),
    fun ht hc => congrArg _ (writeRegister_of_miscounted (r := .outputs) ht hc)⟩

/-- Settles O26: the handler accepts every byte (`writeHandler_evntEnable`). -/
theorem writeEvntEnableKeepsBitZero : Obligations.WriteEvntEnableKeepsBitZero := fun _ _ _ w s =>
  ⟨fun ht hc => congrArg _ (writeRegister_of_ok ht hc (writeHandler_evntEnable w s)),
    fun ht => congrArg _ (writeRegister_of_mistyped (r := .evntEnable) ht),
    fun ht hc => congrArg _ (writeRegister_of_miscounted (r := .evntEnable) ht hc)⟩

/-! ### INPUT_CATCH_MODE: the arming of a code (R128, R162, R163) -/

/-- Line 0 armed and the other lines not. -/
theorem map_range_lineZero {n : Nat} (h : 0 < n) (x : EdgeArm) :
    (List.range n).map (fun i => if i = 0 then x else .off) = x :: List.replicate (n - 1) .off := by
  obtain ⟨k, rfl⟩ := Nat.exists_eq_add_of_lt h
  simp [List.range_succ_eq_map, Function.comp_def, List.map_const']

theorem catchCodes_onAnyChange (p : Params) : p.catchCodes[1] = captureCode p .onAnyChange := rfl
theorem catchCodes_riseOnInput0 (p : Params) : p.catchCodes[2] = captureCode p .riseOnInput0 := rfl
theorem catchCodes_fallOnInput0 (p : Params) : p.catchCodes[3] = captureCode p .fallOnInput0 := rfl

/-- The arming of a legal code, line by line (41_capture.md R162). -/
theorem armCfg_captureCode (p : Params) (m : CaptureMode) :
    armCfg p (captureCode p m) = Spec.arming p (captureCode p m) := by
  simp only [Spec.arming, catchCodes_onAnyChange, catchCodes_riseOnInput0, catchCodes_fallOnInput0, captureCode_inj]
  cases m <;> simp [armCfg, map_range_lineZero p.nInPositive, List.map_const']

/-- OnAnyChange arms every group that has a line, Rise and Fall the group of line 0, and the other modes none. -/
theorem groupArmed_captureCode (p : Params) (m : CaptureMode) (g : Group) :
    groupArmed p (armCfg p (captureCode p m)) g =
      ((decide (m = .onAnyChange) && decide (firstLine g < p.nIn)) ||
        (decide (m = .riseOnInput0 ∨ m = .fallOnInput0) && decide (g = .g0))) := by
  cases m <;> simp [armCfg, groupArmed_replicate, groupArmed_lineZero]

/-- The groups a code leaves with no armed line lose their flags (41_capture.md R163). -/
theorem pend_applyArming (s : State) (m : CaptureMode) :
    let b := captureCode s.params m
    let code := s.params.catchCodes
    (applyArming b s).pend =
      { g0 := s.pend.g0 && (b = code[1] || b = code[2] || b = code[3])
        g1 := s.pend.g1 && b = code[1] && 1 < s.params.nIn
        g2 := s.pend.g2 && b = code[1] && 6 < s.params.nIn } := by
  have lineZero := s.params.nInPositive
  simp only [applyArming_pend, groupArmed_captureCode, catchCodes_onAnyChange, catchCodes_riseOnInput0,
    catchCodes_fallOnInput0, captureCode_inj]
  cases m with
  | onAnyChange => simpa [pendingOf, pending, firstLine, lineZero, Bool.and_comm] using ⟨rfl, rfl⟩
  | _ => simp [pendingOf, pending]

/-- A legal code is stored and its arming applied. -/
theorem writeHandler_inputCatchMode {w : Half} {s : State} (m : CaptureMode)
    (h : w.extractLsb' 0 8 = captureCode s.params m) :
    let b : Byte := w.extractLsb' 0 8
    writeHandler .inputCatchMode (payload w) s = .ok (applyArming b { s with catchCode := b }) := by
  simp only [writeHandler, writeInputCatchMode, elementU8_payload, captureMode?_eq_some_iff.mpr h]

theorem writeHandler_inputCatchMode_illegal {w : Half} {s : State}
    (h : ¬ Spec.legalCapture s.params (w.extractLsb' 0 8)) :
    writeHandler .inputCatchMode (payload w) s = .error .invalidEnumValue := by
  have unnamed : captureMode? s.params (w.extractLsb' 0 8) = none := by
    simpa [legalCapture_iff, Option.eq_none_iff_forall_ne_some] using h
  simp only [writeHandler, writeInputCatchMode, elementU8_payload, unnamed]

/-- Settles O24: the byte is a mode's code, whose arming and dropped flags are those of the two lemmas above. -/
theorem writeInputCatchModeRearms : Obligations.WriteInputCatchModeRearms := by
  refine fun rsv typ count w s => ⟨fun ht hc legal => ?_,
    fun ht hc illegal => congrArg _ (writeRegister_of_refused ht hc (writeHandler_inputCatchMode_illegal illegal)),
    fun ht => congrArg _ (writeRegister_of_mistyped (r := .inputCatchMode) ht),
    fun ht hc => congrArg _ (writeRegister_of_miscounted (r := .inputCatchMode) ht hc)⟩
  obtain ⟨m, named⟩ := legalCapture_iff.mp legal
  have code := captureMode?_eq_some_iff.mp named
  refine congrArg _ ((writeRegister_of_ok ht hc (writeHandler_inputCatchMode m code)).trans ?_)
  have pend := pend_applyArming s m
  rw [← code] at pend
  have arm := armCfg_captureCode s.params m
  rw [← code] at arm
  rw [← pend, ← arm]
  rfl

/-! ### OUTPUT_MODE: the entry of a mode (R130, R210 to R214) -/

/-- The mirror bit is the NOT of input 0's level. -/
theorem mirrorBit_eq (raw : Lines) : mirrorBit raw = BitVec.ofBool (!raw.getLsbD 0) := by
  unfold mirrorBit
  ext i hi
  obtain rfl : i = 0 := by omega
  simp

/-- A pending pulse is forced low when its mode is left, and with none OUT is kept (42_output.md R211). -/
theorem leavePulse_out (s : State) : (leavePulse s).out = if s.tmr = .idle then s.out else 0#1 := by
  unfold leavePulse
  cases s.tmr <;> rfl

theorem isPulseCode_outputCode_iff {p : Params} {m : OutputMode} :
    Spec.IsPulseCode p (outputCode p m) ↔ ∃ w, m = .pulse w := by
  refine ⟨fun h => ?_, fun ⟨w, e⟩ => e ▸ isPulseCode_outputCode p w⟩
  obtain h | h | h | h | h := h
  · exact ⟨.us250, (outputCode_inj p).mp h⟩
  · exact ⟨.us500, (outputCode_inj p).mp h⟩
  · exact ⟨.ms1, (outputCode_inj p).mp h⟩
  · exact ⟨.ms2, (outputCode_inj p).mp h⟩
  · exact ⟨.ms5, (outputCode_inj p).mp h⟩

theorem omodeCodes_mirrorInput0 (p : Params) : p.omodeCodes[2] = outputCode p .mirrorInput0 := rfl

/-- OUT after the entry of a mode, by its code (42_output.md R211 to R214). -/
theorem enterOutputMode_out (c : Byte) (m : OutputMode) (s : State) :
    let b := outputCode s.params m
    (enterOutputMode c m s).out = if Spec.IsPulseCode s.params b then 0#1
      else if b = s.params.omodeCodes[2] then BitVec.ofBool (!s.raw.getLsbD 0)
      else if s.tmr = .idle then s.out else 0#1 := by
  simp only [omodeCodes_mirrorInput0, outputCode_inj]
  cases m with
  | pulse w =>
    rw [if_pos (isPulseCode_outputCode s.params w)]
    rfl
  | _ =>
    rw [if_neg (mt isPulseCode_outputCode_iff.mp (by simp))]
    simp [enterOutputMode, modeEntry, leavePulse_out, mirrorBit_eq]

/-- Entering a mode writes OMODE, TMR and OUT only. -/
theorem enterOutputMode_frame (c : Byte) (m : OutputMode) (s : State) : enterOutputMode c m s =
    { s with omode := c, tmr := .idle, out := (enterOutputMode c m s).out } := by
  rw [State.mk.injEq]
  simp

/-- A legal code runs the entry of its mode. -/
theorem writeHandler_outputMode {w : Half} {s : State} (m : OutputMode)
    (h : w.extractLsb' 0 8 = outputCode s.params m) :
    let b : Byte := w.extractLsb' 0 8
    writeHandler .outputMode (payload w) s = .ok (enterOutputMode b m s) := by
  simp only [writeHandler, writeOutputMode, elementU8_payload, outputMode?_eq_some_iff.mpr h]

theorem writeHandler_outputMode_illegal {w : Half} {s : State}
    (h : ¬ Spec.legalOutput s.params (w.extractLsb' 0 8)) :
    writeHandler .outputMode (payload w) s = .error .invalidEnumValue := by
  have unnamed : outputMode? s.params (w.extractLsb' 0 8) = none := by
    simpa [legalOutput_iff, Option.eq_none_iff_forall_ne_some] using h
  simp only [writeHandler, writeOutputMode, elementU8_payload, unnamed]

/-- Settles O25: the byte is a mode's code, and its entry writes what the two lemmas above say. -/
theorem writeOutputModeRunsTheEntry : Obligations.WriteOutputModeRunsTheEntry := by
  refine fun rsv typ count w s => ⟨fun ht hc legal => ?_,
    fun ht hc illegal => congrArg _ (writeRegister_of_refused ht hc (writeHandler_outputMode_illegal illegal)),
    fun ht => congrArg _ (writeRegister_of_mistyped (r := .outputMode) ht),
    fun ht hc => congrArg _ (writeRegister_of_miscounted (r := .outputMode) ht hc)⟩
  obtain ⟨m, named⟩ := legalOutput_iff.mp legal
  have code := outputMode?_eq_some_iff.mp named
  refine congrArg _ ((writeRegister_of_ok ht hc (writeHandler_outputMode m code)).trans ?_)
  rw [enterOutputMode_frame, enterOutputMode_out, code]

/-! ## Commands that fail (R142, R143) -/

/-- Settles O30: each reserved command is `failCommand` of the one reason. -/
theorem reservedCommandsFail : Obligations.ReservedCommandsFail := by
  intro rest low2 low3 s i hi
  simp only [List.mem_cons, List.not_mem_nil, or_false] at hi
  obtain rfl | rfl | rfl := hi <;> exact ⟨rfl, rfl, rfl⟩

/-- An answer of Ok is no failure. -/
theorem okBit_ok_ne_zero (data : Half) : okBit (.ok data) ≠ 0#1 := by
  simp [okBit]

/-- A host command adds one answer; if it fails, or is a READ, it does nothing else. -/
theorem Effect.only_answers {i : Instr} {s t : State} (e : Effect i s t) (host : i.kind.isHost = true) :
    ∃ r, t.responses = s.responses ++ [r] ∧ (okBit r = 0#1 ∨ i.kind = .read → t = Spec.answered r s) := by
  cases e with
  | answered r host next => exact ⟨r, by rw [next, respond_responses], fun _ => next⟩
  | wrote r bytes u host what handler next =>
    refine ⟨.ok 0#16, by simp [next, writeHandler_responses handler], fun h => ?_⟩
    obtain failed | read := h
    · exact absurd failed (okBit_ok_ne_zero _)
    · obtain kind | ⟨kind, -⟩ := what <;> rw [kind] at read <;> cases read
  | reinit kind next =>
    refine ⟨.ok 0#16, by rw [next]; rfl, fun h => ?_⟩
    obtain failed | read := h
    · exact absurd failed (okBit_ok_ne_zero _)
    · rw [kind] at read; cases read
  | pins pv what => subst what; cases host
  | edgeSample g what kind | edgeOnly g what kind => rw [kind] at host; cases host
  | tickSample kind | tickOnly kind | second kind | fire kind | safe kind => rw [kind] at host; cases host

/-- Settles O31, by what the command did (`exec_effect`): an accepted WRITE and REINIT answer Ok and are no READ. -/
theorem failedCommandChangesNothing : Obligations.FailedCommandChangesNothing :=
  fun _ _ _ host ht => (exec_effect ht).only_answers host

end Sys2Proof.Machine

/-! # Input capture (41_capture.md): proofs

What PINS, the three edge handlers and the two ticks do: which edges set a flag, which samples are taken, and what a
sample does. -/

namespace Sys2Proof.Machine

/-! ## PINS (R164, R165) -/

theorem lineGroup_eq_groupOf (i : Nat) : lineGroup i = Spec.groupOf i := by
  obtain rfl | pos := Nat.eq_zero_or_pos i
  · rfl
  · simp [lineGroup, Spec.groupOf, Nat.succ_le_of_lt pos]

theorem edgeMatch_iff {a : EdgeArm} {old new : Bool} : edgeMatch a old new = true ↔ Spec.matches? a old new := by
  cases a <;> simp [edgeMatch, Spec.matches?]

theorem inputBits_eq_inputMask (p : Params) : Spec.inputBits p = inputMask p := rfl

/-- An input line has its level from the pin word's own bit. -/
theorem pvRaw_getLsbD {p : Params} {i : Nat} (h : i < p.nIn) (pv : Lines) : (pvRaw p pv).getLsbD i = pv.getLsbD i := by
  have := nIn_le p
  simp [pvRaw, inputMask, h, show i < 16 by omega]

/-- Settles O34: `groupEdge` is the existence of an armed edge (`groupEdge_iff`). -/
theorem pinsSetsFlagsOfArmedEdges : Obligations.PinsSetsFlagsOfArmedEdges := by
  refine fun pv s => ⟨_, rfl, fun g => ?_⟩
  rw [pending_pendingOf, Bool.or_eq_true, groupEdge_iff]
  refine or_congr_right (exists_congr fun i => and_congr_right fun hi => ?_)
  rw [lineGroup_eq_groupOf, pvRaw_getLsbD hi, edgeMatch_iff]
  rfl

/-! ## The snapshot (R160, 10_state.md R40) -/

section snapshot

variable (p : Params) (raw strap : Lines)

theorem mkSnapshot_getLsbD_input {i : Nat} (h : i < p.nIn) : (mkSnapshot p raw strap).getLsbD i = !raw.getLsbD i := by
  have fits := nIn_le p
  have noStrap : i ∉ p.strapPos := fun hm => absurd (p.strapAbove i hm).1 (by omega)
  rw [mkSnapshot, BitVec.getLsbD_or, strapBits_of_notMem _ _ _ noStrap]
  simp [inputMask, h, show i < 16 by omega]

/-- Above the inputs a snapshot holds the strap bits only. -/
theorem mkSnapshot_getLsbD_above {i : Nat} (h : p.nIn ≤ i) :
    (mkSnapshot p raw strap).getLsbD i = (strapBits p.strapInvert strap p.strapPos 0).getLsbD i := by
  simp [mkSnapshot, inputMask, show ¬ i < p.nIn by omega]

theorem mkSnapshot_getLsbD_strap {j q : Nat} (h : p.strapPos[j]? = some q) :
    (mkSnapshot p raw strap).getLsbD q = (strap.getLsbD j ^^ p.strapInvert) := by
  obtain ⟨above, fits⟩ := p.strapAbove q (List.mem_of_getElem? h)
  rw [mkSnapshot_getLsbD_above p raw strap above, strapBits_getElem _ _ p.strapDistinct 0 h fits, Nat.zero_add]

end snapshot

/-- No two strap lines have one position (10_state.md R40). -/
theorem strapPos_inj (p : Params) {j k q : Nat} (hj : p.strapPos[j]? = some q) (hk : p.strapPos[k]? = some q) :
    j = k := by
  obtain ⟨inside, -⟩ := List.getElem?_eq_some_iff.mp hj
  exact (List.getElem?_inj inside p.strapDistinct).mp (hj.trans hk.symm)

/-- Settles O35, by where a bit stands: among the inputs, at a strap position, or at neither. -/
theorem snapshotPacksTheLines : Obligations.SnapshotPacksTheLines := by
  intro p raw strap
  refine ⟨p.strapCount, fun j k q => strapPos_inj p, fun i => mkSnapshot_getLsbD_input p raw strap,
    fun j q h => ?_, fun i above noStrap => ?_⟩
  · obtain ⟨above, fits⟩ := p.strapAbove q (List.mem_of_getElem? h)
    exact ⟨above, fits, mkSnapshot_getLsbD_strap p raw strap h⟩
  · rw [mkSnapshot_getLsbD_above p raw strap above, strapBits_of_notMem _ _ _ noStrap]

/-! ## What an accepted sample does (R166, R167; 42_output.md R200 to R204, R220) -/

theorem omodeCodes_toggle (p : Params) : p.omodeCodes[1] = outputCode p .toggle := rfl
theorem omodeCodes_us250 (p : Params) : p.omodeCodes[3] = outputCode p (.pulse .us250) := rfl
theorem omodeCodes_us500 (p : Params) : p.omodeCodes[4] = outputCode p (.pulse .us500) := rfl
theorem omodeCodes_ms1 (p : Params) : p.omodeCodes[5] = outputCode p (.pulse .ms1) := rfl
theorem omodeCodes_ms2 (p : Params) : p.omodeCodes[6] = outputCode p (.pulse .ms2) := rfl
theorem omodeCodes_ms5 (p : Params) : p.omodeCodes[7] = outputCode p (.pulse .ms5) := rfl

/-- OUT after the action of the mode in force, by its code (42_output.md R201 to R204). -/
theorem outputAction_out (s : State) : (outputAction s.omode s).out = Spec.outAfterSample s := by
  simp only [outputAction, Spec.outAfterSample, Spec.IsPulseCode, omodeCodes_toggle, omodeCodes_mirrorInput0,
    omodeCodes_us250, omodeCodes_us500, omodeCodes_ms1, omodeCodes_ms2, omodeCodes_ms5]
  cases named : outputMode? s.params s.omode with
  | none => simp [outputMode?_eq_none_iff.mp named]
  | some m =>
    simp only [outputMode?_eq_some_iff.mp named, outputCode_inj]
    rcases m with _ | _ | _ | (_ | _ | _ | _ | _) <;> simp [actPulse, mirrorBit_eq]

/-- TMR after the action of the mode in force, by its code (42_output.md R204). -/
theorem outputAction_tmr (s : State) : (outputAction s.omode s).tmr = Spec.tmrAfterSample s := by
  simp only [outputAction, Spec.tmrAfterSample, omodeCodes_us250, omodeCodes_us500, omodeCodes_ms1, omodeCodes_ms2,
    omodeCodes_ms5]
  cases named : outputMode? s.params s.omode with
  | none => simp [outputMode?_eq_none_iff.mp named]
  | some m =>
    simp only [outputMode?_eq_some_iff.mp named, outputCode_inj]
    rcases m with _ | _ | _ | (_ | _ | _ | _ | _) <;> simp [actPulse, pulseUs]

/-- A sample writes INSTATE, OUT, TMR and the notification output, and nothing else. -/
theorem takeSample_eq_sampled (s : State) : takeSample s = Spec.sampled s := by
  have notes : (takeSample s).notifications = Spec.notesAfterSample s := takeSample_notifications s
  rw [Spec.sampled, State.mk.injEq]
  simp [takeSample_out, takeSample_tmr, outputAction_out, outputAction_tmr, notes]

/-- An edge sample is taken exactly when the inputs differ from those of INSTATE (R167). -/
theorem acceptSample_true (s : State) : acceptSample true s = if Spec.SameInputs s then s else takeSample s := by
  simp only [acceptSample, true_and]
  rfl

/-- Settles O36: the model's sample is the statement's (`takeSample_eq_sampled`). -/
theorem acceptedSampleRunsTheModesAction : Obligations.AcceptedSampleRunsTheModesAction := fun s =>
  ⟨takeSample_eq_sampled s, (acceptSample_false s).trans (takeSample_eq_sampled s),
    takeSample_eq_sampled s ▸ acceptSample_true s⟩

/-! ## The edge handlers (R167 to R170) -/

/-- The catch modes under which the handler of a group samples: through its gate for group 0, and under OnAnyChange
for the others (R168 to R170). -/
def edgeGate : Group → State → Bool
  | .g0, s => Spec.gateOpen s
  | .g1, s => s.catchCode = s.params.catchCodes[1]
  | .g2, s => s.catchCode = s.params.catchCodes[1]

theorem edgeG0Body_eq (s : State) : edgeG0Body s = if edgeGate .g0 s then acceptSample true s else s := by
  simp only [edgeG0Body, edgeGate, Spec.gateOpen, catchCodes_onAnyChange, catchCodes_riseOnInput0,
    catchCodes_fallOnInput0]
  cases named : captureMode? s.params s.catchCode with
  | none => simp [captureMode?_eq_none_iff.mp named]
  | some m =>
    simp only [captureMode?_eq_some_iff.mp named, captureCode_inj]
    cases m <;> cases s.raw.getLsbD 0 <;> simp

theorem edgeGate_iff_onAnyChange {g : Group} (h : g ≠ .g0) {s : State} :
    edgeGate g s = true ↔ s.catchCode = s.params.catchCodes[1] := by
  cases g with
  | g0 => exact absurd rfl h
  | g1 | g2 => exact decide_eq_true_iff

theorem edgeOtherBody_eq {g : Group} (h : g ≠ .g0) (s : State) :
    edgeOtherBody s = if edgeGate g s then acceptSample true s else s := by
  simp only [edgeOtherBody, edgeGate_iff_onAnyChange h, captureMode?_eq_some_iff, catchCodes_onAnyChange]

/-- Every edge handler is one: a filtered sample behind the gate of its group. -/
theorem exec_edgeInstr_eq (g : Group) (s : State) : exec (edgeInstr g) s =
    runEdgeHandler g (fun t => if edgeGate g t then acceptSample true t else t) s := by
  cases g with
  | g0 => exact congrArg (runEdgeHandler .g0 · s) (funext edgeG0Body_eq)
  | g1 => exact congrArg (runEdgeHandler .g1 · s) (funext (edgeOtherBody_eq nofun))
  | g2 => exact congrArg (runEdgeHandler .g2 · s) (funext (edgeOtherBody_eq nofun))

@[simp] theorem edgeGate_clearPending (g k : Group) (s : State) : edgeGate g (clearPending k s) = edgeGate g s := by
  cases g <;> rfl

@[simp] theorem sameInputs_clearPending (g : Group) (s : State) :
    Spec.SameInputs (clearPending g s) ↔ Spec.SameInputs s := .rfl

/-- A pending handler clears its flag, and samples exactly when its gate is open and the inputs differ. -/
theorem exec_edgeInstr_of_pending {g : Group} {s : State} (h : pending s.pend g = true) :
    exec (edgeInstr g) s = .next (if edgeGate g s ∧ ¬ Spec.SameInputs s then Spec.sampled (clearPending g s)
      else clearPending g s) := by
  rw [exec_edgeInstr_eq, runEdgeHandler, if_pos h]
  simp only [edgeGate_clearPending, acceptSample_true, sameInputs_clearPending, takeSample_eq_sampled, ite_and, ite_not]

/-- Settles O37: the handler of group 0, its gate written out. -/
theorem edgeG0SamplesThroughItsGate : Obligations.EdgeG0SamplesThroughItsGate :=
  fun _ => exec_edgeInstr_of_pending (g := .g0)

/-- Settles O38: the handlers of the other groups, whose gate is OnAnyChange (`edgeGate_iff_onAnyChange`). -/
theorem edgeG1AndG2SampleUnderOnAnyChange : Obligations.EdgeG1AndG2SampleUnderOnAnyChange := by
  intro s
  have handler : ∀ g, g ≠ .g0 → pending s.pend g = true → exec (edgeInstr g) s =
      .next (if s.catchCode = s.params.catchCodes[1] ∧ ¬ Spec.SameInputs s then Spec.sampled (clearPending g s)
        else clearPending g s) := fun g other h => by
    simpa only [edgeGate_iff_onAnyChange other] using exec_edgeInstr_of_pending h
  exact ⟨handler .g1 nofun, handler .g2 nofun⟩

/-- A pending handler whose sample shows the inputs of INSTATE only clears its flag (R167). -/
theorem exec_edgeInstr_of_sameInputs {g : Group} {s : State} (h : pending s.pend g = true)
    (same : Spec.SameInputs s) : exec (edgeInstr g) s = .next (clearPending g s) := by
  rw [exec_edgeInstr_of_pending h, if_neg fun taken => taken.2 same]

/-! ## The ticks (R171, R172) -/

/-- DIV of the code, by its mode: 0 for a mode that does not poll and for a code that names no mode. -/
theorem divOf_eq (p : Params) (c : Byte) : Spec.divOf p c = ((captureMode? p c).bind (pollDivisor p)).getD 0 := by
  have poll100 : p.catchCodes[4] = captureCode p .poll100Hz := rfl
  have poll250 : p.catchCodes[5] = captureCode p .poll250Hz := rfl
  have poll500 : p.catchCodes[6] = captureCode p .poll500Hz := rfl
  have poll1000 : p.catchCodes[7] = captureCode p .poll1000Hz := rfl
  have poll2000 : p.catchCodes[8] = captureCode p .poll2000Hz := rfl
  rw [Spec.divOf, poll100, poll250, poll500, poll1000, poll2000]
  cases named : captureMode? p c with
  | none => simp [captureMode?_eq_none_iff.mp named]
  | some m =>
    simp only [captureMode?_eq_some_iff.mp named, captureCode_inj]
    cases m <;> simp [pollDivisor]

theorem tickSamples_iff_tickDue {s : State} : tickSamples s = true ↔ Spec.TickDue s := by
  rw [tickSamples, Spec.TickDue, divOf_eq]
  cases h : (captureMode? s.params s.catchCode).bind (pollDivisor s.params) with
  | none => simp
  | some d =>
    obtain ⟨m, -, hd⟩ := Option.bind_eq_some_iff.mp h
    simpa using fun _ => (pollDivisor_pos hd).ne'

/-- Settles O40: the model's cadence is the statement's (`tickSamples_iff_tickDue`). -/
theorem baseTickSamplesByTheDivisor : Obligations.BaseTickSamplesByTheDivisor := by
  intro s
  rw [exec, execBaseTick_eq]
  simp only [tickSamples_iff_tickDue, takeSample_eq_sampled]
  rfl

/-- Settles O41: it is what the instruction is defined to do. -/
theorem secondTickResetsThePhase : Obligations.SecondTickResetsThePhase := fun _ => rfl

/-- Settles O39: an edge handler discards the sample (`exec_edgeInstr_of_sameInputs`), a tick that is due takes it. -/
theorem onlyEdgeSamplesAreFiltered : Obligations.OnlyEdgeSamplesAreFiltered := by
  refine fun g s same => ⟨fun h => ?_, fun due => ?_⟩
  · rw [exec_edgeInstr_of_sameInputs h same]
    cases g <;> simp [clearPending, setPending, pendingOf, pending]
  · rw [baseTickSamplesByTheDivisor, if_pos due]

/-! ## Two edges of one pattern (95_test_vectors.md W4) -/

theorem edgeGate_of_onAnyChange {s : State} (mode : s.catchCode = s.params.catchCodes[1]) (g : Group) :
    edgeGate g s = true := by
  cases g <;> simp [edgeGate, Spec.gateOpen, mode]

/-- Once a handler has run under OnAnyChange, INSTATE shows the inputs as they are: it took the sample, or discarded it
because INSTATE showed them already. -/
theorem sameInputs_after_edge {g : Group} {s t : State} (mode : s.catchCode = s.params.catchCodes[1])
    (ht : exec (edgeInstr g) s = .next t) : Spec.SameInputs t := by
  obtain ⟨set, -⟩ := edgeStep_cases ht
  rw [exec_edgeInstr_of_pending set, edgeGate_of_onAnyChange mode] at ht
  split at ht <;> cases ht
  case isTrue => rfl
  case isFalse discarded => simpa using discarded

/-- Settles O48: the second handler finds the inputs of INSTATE (`sameInputs_after_edge`). -/
theorem secondEdgeOfOnePatternIsDiscarded : Obligations.SecondEdgeOfOnePatternIsDiscarded := by
  intro g k s t mode ht set
  refine ⟨_, exec_edgeInstr_of_sameInputs set (sameInputs_after_edge mode ht), rfl, fun j => ?_⟩
  rw [clearPending_pend, pending_setPending]
  split <;> simp [*]

/-! ## The trigger sources (R173, R174) -/

theorem catchCodes_disabled (p : Params) : p.catchCodes[0] = captureCode p .disabled := rfl

theorem divOf_captureCode (p : Params) (m : CaptureMode) :
    Spec.divOf p (captureCode p m) = (pollDivisor p m).getD 0 := by
  simp [divOf_eq]

/-- A base tick of a code that does not poll only counts. -/
theorem exec_baseTick_of_divOf_zero {s : State} (h : Spec.divOf s.params s.catchCode = 0) :
    exec .baseTick s = .next { s with phase := (s.phase + 1) % 2 ^ s.params.phaseW } := by
  rw [baseTickSamplesByTheDivisor, if_neg fun due => due.1 h]

/-- The handler of a group that the mode does not arm is not enabled: a flag is of an armed group (R43). -/
theorem State.Inv.edge_not_enabled {s : State} (h : s.Inv) {m : CaptureMode}
    (mode : s.catchCode = captureCode s.params m) {g : Group}
    (unarmed : groupArmed s.params (armCfg s.params (captureCode s.params m)) g = false) :
    exec (edgeInstr g) s = .fault (.stepNotEnabled (.edgeGroup g)) := by
  have clear : ¬ pending s.pend g = true := fun set => by
    have armed := h.pendArmed g set
    rw [h.armOfCatch, mode, unarmed] at armed
    cases armed
  exact exec_fault_of_source_not_pending (by cases g <;> rfl) clear

/-- Settles O47: CATCH holds the code of a mode, and the mode settles the divisor and the armed groups. -/
theorem triggerSourcesAreExclusive : Obligations.TriggerSourcesAreExclusive := by
  intro s h
  obtain ⟨m, mode⟩ := h.catchLegal
  simp only [mode, catchCodes_disabled, catchCodes_onAnyChange, catchCodes_riseOnInput0, catchCodes_fallOnInput0,
    captureCode_inj, divOf_captureCode]
  refine ⟨fun noPoll => ?_, fun noEdge g => ?_, fun lineZero g other => ?_⟩
  · have noDivisor : Spec.divOf s.params s.catchCode = 0 := by
      rw [mode, divOf_captureCode]
      obtain rfl | rfl | rfl | rfl := noPoll <;> rfl
    rw [exec_baseTick_of_divOf_zero noDivisor, mode]
  · apply h.edge_not_enabled mode
    cases m with
    | onAnyChange | riseOnInput0 | fallOnInput0 => simp [pollDivisor] at noEdge
    | _ => simp [groupArmed_captureCode]
  · apply h.edge_not_enabled mode
    obtain rfl | rfl := lineZero <;> simp [groupArmed_captureCode, other]

/-! ## Runs of instructions -/

theorem runInstrs_cons {i : Instr} {is : List Instr} {s t : State} (h : exec i s = .next t) :
    runInstrs (i :: is) s = runInstrs is t := by
  rw [runInstrs, h]

theorem runInstrs_append {is js : List Instr} {s t : State} (h : runInstrs is s = .next t) :
    runInstrs (is ++ js) s = runInstrs js t := by
  induction is generalizing s with
  | nil => cases h; rfl
  | cons i is ih =>
    simp only [List.cons_append, runInstrs] at h ⊢
    split at h
    · exact ih h
    · cases h
    · cases h

/-! ## A falling input 0 (95_test_vectors.md W8) -/

/-- A mask commutes with flipping a bit it keeps. -/
theorem xor_and_mask (v : Lines) {b m : Lines} (h : b &&& m = b) : (v ^^^ b) &&& m = (v &&& m) ^^^ b :=
  calc (v ^^^ b) &&& m
    _ = (v &&& m) ^^^ (b &&& m) := by ext; simp [Bool.and_xor_distrib_right]
    _ = (v &&& m) ^^^ b := by rw [h]

theorem two_le_two_pow_nIn (p : Params) : 2 ≤ 2 ^ p.nIn := Nat.le_self_pow p.nInPositive.ne' 2

/-- Bit 0 is the bit of an input. -/
theorem one_and_inputBits (p : Params) : 1#16 &&& Spec.inputBits p = 1#16 :=
  and_lowMask_of_lt (nIn_le p) (two_le_two_pow_nIn p)

/-- The input bits of a pin word are the levels it was made of: the straps stand above them. -/
theorem pinWord_and_inputBits {p : Params} {raw : Lines} (h : raw.toNat < 2 ^ p.nIn) (strap : Lines) :
    pinWord p raw strap &&& Spec.inputBits p = raw := by
  have straps : strap <<< p.nIn &&& inputMask p = 0#16 := by
    refine BitVec.eq_of_getLsbD_eq fun i _ => ?_
    by_cases input : i < p.nIn <;> simp [inputMask, input]
  rw [pinWord, inputBits_eq_inputMask, BitVec.and_or_distrib_right, straps, BitVec.or_zero, inputMask,
    and_lowMask_of_lt (nIn_le p) h]

/-- The pin word that lowers input 0 and leaves the other levels. -/
abbrev fallingWord (s : State) : Lines := pinWord s.params (s.raw ^^^ 1#16) s.strap

/-- Under OnAnyChange a falling input 0 sets the flag of its group. -/
theorem exec_pins_fallingWord {s : State} (h : s.Inv) (mode : s.catchCode = s.params.catchCodes[1])
    (high : s.raw.getLsbD 0 = true) : ∃ (p : Pending) (strap : Lines), p.g0 = true ∧
      exec (.pins (fallingWord s)) s = .next { s with pend := p, raw := s.raw ^^^ 1#16, strap := strap } := by
  have lines := s.params.nInPositive
  obtain ⟨p, next, flags⟩ := pinsSetsFlagsOfArmedEdges (fallingWord s) s
  have fits : (s.raw ^^^ 1#16).toNat < 2 ^ s.params.nIn := by
    rw [BitVec.toNat_xor]
    exact Nat.xor_lt_two_pow h.rawFits (two_le_two_pow_nIn s.params)
  rw [pinWord_and_inputBits fits] at next
  refine ⟨p, _, (flags .g0).mpr (.inr ⟨0, lines, rfl, .inl ⟨?_, ?_⟩⟩), next⟩
  · rw [h.armOfCatch, mode, catchCodes_onAnyChange, armCfg_onAnyChange]
    simp [lines]
  · have low : (fallingWord s).getLsbD 0 = false := by
      rw [fallingWord, pinWord, BitVec.getLsbD_or, BitVec.getLsbD_xor, high]
      simp [lines]
    rw [high, low]
    decide

/-- The handler of group 0 under OnAnyChange, Toggle and EVT_EN, when the inputs differ from those of INSTATE. -/
theorem exec_edgeG0_toggle {s : State} (set : s.pend.g0 = true) (mode : s.catchCode = s.params.catchCodes[1])
    (toggle : s.omode = s.params.omodeCodes[1]) (events : s.even = 0x01#8) (differ : ¬ Spec.SameInputs s) :
    ∃ t, exec .edgeG0 s = .next t ∧ t.instate = mkSnapshot s.params s.raw s.strap ∧ t.out = s.out ^^^ 1#1 ∧
      t.notifications = s.notifications ++ [⟨Spec.inputsStateAddr s.params, t.instate⟩] ∧ t.tmr = s.tmr := by
  have named : outputMode? s.params s.omode = some .toggle := outputMode?_eq_some_iff.mpr toggle
  refine ⟨takeSample (clearPending .g0 s), ?_, takeSample_instate _, ?_, ?_, ?_⟩
  · rw [takeSample_eq_sampled]
    exact (exec_edgeInstr_of_pending (g := .g0) set).trans
      (congrArg _ (if_pos ⟨edgeGate_of_onAnyChange mode .g0, differ⟩))
  · simp [takeSample_out, outputAction, named]
  · rw [takeSample_notifications, if_pos (by simp [eventsEnabled, events]), takeSample_instate]
    rfl
  · simp [takeSample_tmr, outputAction, named]

/-- Settles O49: PINS sets the flag (`exec_pins_fallingWord`), and the handler takes the sample
(`exec_edgeG0_toggle`), which differs from INSTATE in bit 0. -/
theorem fallingInputZeroIsCapturedEndToEnd : Obligations.FallingInputZeroIsCapturedEndToEnd := by
  intro s h mode toggle events high upToDate
  obtain ⟨p, strap, set, pins⟩ := exec_pins_fallingWord h mode high
  have flipped : mkSnapshot s.params (s.raw ^^^ 1#16) strap &&& Spec.inputBits s.params =
      (s.instate &&& Spec.inputBits s.params) ^^^ 1#16 :=
    calc mkSnapshot s.params (s.raw ^^^ 1#16) strap &&& Spec.inputBits s.params
      _ = ~~~(s.raw ^^^ 1#16) &&& Spec.inputBits s.params := mkSnapshot_and_inputMask _ _ _
      _ = (~~~s.raw ^^^ 1#16) &&& Spec.inputBits s.params := by rw [BitVec.not_xor_left]
      _ = (~~~s.raw &&& Spec.inputBits s.params) ^^^ 1#16 := xor_and_mask _ (one_and_inputBits s.params)
      _ = (s.instate &&& Spec.inputBits s.params) ^^^ 1#16 := by rw [upToDate]
  have differ : ¬ Spec.SameInputs { s with pend := p, raw := s.raw ^^^ 1#16, strap := strap } := fun same => by
    have unchanged := flipped.symm.trans same
    simp at unchanged
  obtain ⟨t, edge, instate, rest⟩ := exec_edgeG0_toggle (s := { s with pend := p, raw := _, strap := _ }) set mode
    toggle events differ
  exact ⟨t, (runInstrs_cons pins).trans (runInstrs_cons edge), instate ▸ flipped, rest⟩

/-! ## The poll cadence (R175) -/

theorem runInstrs_ticks_succ {n : Nat} {s t u : State} (h : runInstrs (ticks n) s = .next t)
    (tick : exec .baseTick t = .next u) : runInstrs (ticks (n + 1)) s = .next u := by
  rw [ticks, List.replicate_succ', ← ticks, runInstrs_append h, runInstrs_cons tick, runInstrs]

/-- The number of multiples of `d` among 0 to n - 1 grows at a multiple of `d`. -/
theorem ceilDiv_succ {n d : Nat} (hd : d ≠ 0) :
    (n + 1 + d - 1) / d = (n + d - 1) / d + if n % d = 0 then 1 else 0 := by
  rw [show n + 1 + d - 1 = n + d - 1 + 1 by omega, Nat.succ_div, show n + d - 1 + 1 = n + d by omega]
  simp only [Nat.dvd_iff_mod_eq_zero, Nat.add_mod_right]

theorem ceilDiv_of_dvd {n d : Nat} (hd : d ≠ 0) (h : d ∣ n) : (n + d - 1) / d = n / d := by
  obtain ⟨k, rfl⟩ := h
  have pos : 0 < d := Nat.pos_of_ne_zero hd
  rw [Nat.add_sub_assoc pos, Nat.mul_add_div pos, Nat.div_eq_of_lt (by omega), Nat.add_zero,
    Nat.mul_div_cancel_left k pos]

/-- With EVT_EN set a base tick sends one notification if it is due, and none if not. -/
theorem exec_baseTick_notifies {s : State} (events : s.even.getLsbD 0 = true) :
    ∃ t, exec .baseTick s = .next t ∧
      t.notifications.length = s.notifications.length + (if Spec.TickDue s then 1 else 0) ∧
      t.phase = (s.phase + 1) % 2 ^ s.params.phaseW ∧ t.catchCode = s.catchCode ∧ t.even = s.even ∧
      t.params = s.params := by
  refine ⟨_, baseTickSamplesByTheDivisor s, ?_⟩
  split <;> simp [Spec.sampled, Spec.notesAfterSample, events]

/-- What n ticks of a poll mode leave, counted from PHASE 0 and with EVT_EN set. -/
structure AfterTicks (s : State) (n : Nat) (t : State) : Prop where
  samples : t.notifications.length =
    s.notifications.length + (n + Spec.divOf s.params s.catchCode - 1) / Spec.divOf s.params s.catchCode
  phase : t.phase = n % 2 ^ s.params.phaseW
  catchCode : t.catchCode = s.catchCode
  even : t.even = s.even
  params : t.params = s.params

section cadence

variable {s : State} (poll : Spec.divOf s.params s.catchCode ≠ 0) (events : s.even.getLsbD 0 = true)
include poll events

/-- A tick of a poll mode counts, and samples when its count is a multiple of the divisor. -/
theorem AfterTicks.tick {n : Nat} {t : State} (h : AfterTicks s n t) (noWrap : n < 2 ^ s.params.phaseW) :
    ∃ u, exec .baseTick t = .next u ∧ AfterTicks s (n + 1) u := by
  have count : t.phase = n := h.phase.trans (Nat.mod_eq_of_lt noWrap)
  have due : Spec.TickDue t ↔ n % Spec.divOf s.params s.catchCode = 0 := by
    simp [Spec.TickDue, h.params, h.catchCode, count, poll]
  obtain ⟨u, tick, samples, phase, catchCode, even, params⟩ := exec_baseTick_notifies (h.even ▸ events)
  refine ⟨u, tick, ?_, ?_, catchCode.trans h.catchCode, even.trans h.even, params.trans h.params⟩
  · rw [samples, h.samples, ceilDiv_succ poll, Nat.add_assoc, if_congr due rfl rfl]
  · rw [phase, count, h.params]

theorem runInstrs_ticks (start : s.phase = 0) {n : Nat} (noWrap : n ≤ 2 ^ s.params.phaseW) :
    ∃ t, runInstrs (ticks n) s = .next t ∧ AfterTicks s n t := by
  induction n with
  | zero =>
    have none : (0 + Spec.divOf s.params s.catchCode - 1) / Spec.divOf s.params s.catchCode = 0 :=
      Nat.div_eq_of_lt (by omega)
    exact ⟨s, rfl, by rw [none, Nat.add_zero], by rw [start, Nat.zero_mod], rfl, rfl, rfl⟩
  | succ n ih =>
    obtain ⟨t, run, after⟩ := ih (by omega)
    obtain ⟨u, tick, after⟩ := after.tick poll events (by omega)
    exact ⟨u, runInstrs_ticks_succ run tick, after⟩

end cadence

/-- Each default divisor divides the base rate (00_scope.md R15). -/
theorem divOf_defaultParams_dvd {c : Byte} (poll : Spec.divOf defaultParams c ≠ 0) :
    Spec.divOf defaultParams c ∣ 2000 := by
  revert c
  decide

/-- Settles O50: the count after n ticks (`runInstrs_ticks`) is exact where DIV divides n, as it does 2000 by default. -/
theorem pollModesKeepTheirCadence : Obligations.PollModesKeepTheirCadence := by
  intro s d poll start events
  refine ⟨fun n noWrap => ?_, fun default => ?_⟩
  · obtain ⟨t, run, after⟩ := runInstrs_ticks poll events start noWrap
    exact ⟨t, run, after.samples, fun whole => ceilDiv_of_dvd poll whole ▸ after.samples, after.phase,
      after.catchCode⟩
  · have noWrap : 2000 ≤ 2 ^ s.params.phaseW := by
      rw [default]
      decide
    have whole : d ∣ 2000 := by
      simp only [d, default] at poll ⊢
      exact divOf_defaultParams_dvd poll
    obtain ⟨t, run, after⟩ := runInstrs_ticks poll events start noWrap
    exact ⟨t, run, ceilDiv_of_dvd poll whole ▸ after.samples⟩

end Sys2Proof.Machine

/-! # Output (42_output.md): proofs

The end of a pulse, which steps leave no countdown behind, and which steps send a notification. -/

namespace Sys2Proof.Machine

/-! ## The fire handler (R205) -/

/-- With the timer armed the fire forces OUT low and disarms it. -/
theorem exec_pulseFire_of_armed {s : State} {us : Nat} (armed : s.tmr = .armed us) :
    exec .pulseFire s = .next { s with out := 0#1, tmr := .idle } :=
  if_pos (by rw [armed]; rfl)

/-- With no countdown there is no fire (00_scope.md R23). -/
theorem exec_pulseFire_ne_next {t : State} (idle : t.tmr = .idle) (u : State) : exec .pulseFire t ≠ .next u := by
  have stop : exec .pulseFire t = .fault (.stepNotEnabled .pulseTimer) :=
    exec_fault_of_source_not_pending rfl (by simp [sourcePending, idle, timerArmed])
  simp [stop]

/-- An OUTPUT_MODE write answered with Ok was accepted, and entering a mode disarms the timer (R210 to R213). -/
theorem tmr_of_accepted_outputMode {typ count : Byte} {w : Half} {s : State}
    (accepted : (writeRegister .outputMode typ count w s).responses = s.responses ++ [.ok 0#16]) :
    (writeRegister .outputMode typ count w s).tmr = .idle := by
  obtain ⟨reason, refused⟩ | ⟨t, handler, wrote⟩ := writeRegister_cases .outputMode typ count w s
  · simp [refused] at accepted
  · obtain ⟨⟨⟩, -⟩ | ⟨⟨⟩, -⟩ | ⟨m, -, -, entered⟩ | ⟨⟨⟩, -⟩ := writeHandler_cases handler
    simp [wrote, entered]

/-- The steps that end a pulse leave the timer idle (R205, R210, R240, R241). -/
theorem tmr_of_pulse_ended {i : Instr} {s t : State} (h : exec i s = .next t)
    (ends : i.kind = .pulseFire ∨ i.kind = .reinit ∨ i.kind = .forceSafe ∨
      (i.kind = .write .outputMode ∧ t.responses = s.responses ++ [.ok 0#16])) : t.tmr = .idle := by
  cases i with
  | pulseFire =>
    cases timer : s.tmr with
    | idle => exact absurd h (exec_pulseFire_ne_next timer t)
    | armed us =>
      cases (exec_pulseFire_of_armed timer).symm.trans h
      rfl
  | reinit | forceSafe => cases h; rfl
  | writeOutputMode rsv typ count w =>
    cases h
    exact tmr_of_accepted_outputMode (by simpa [Instr.kind] using ends)
  | _ => simp [Instr.kind] at ends

/-- Settles O42: the steps named leave the timer idle (`tmr_of_pulse_ended`), where no fire is enabled. -/
theorem pulseFireEndsThePulseOnce : Obligations.PulseFireEndsThePulseOnce :=
  ⟨fun _ _ => exec_pulseFire_of_armed,
    fun _ _ _ ht ends => exec_pulseFire_ne_next (tmr_of_pulse_ended ht ends)⟩

/-! ## Who notifies (R220, R222) -/

/-- An accepted WRITE emits nothing, whatever it does to OUT. -/
theorem writeHandler_notifications {r : Register} {bytes : List Byte} {s t : State}
    (h : writeHandler r bytes s = .ok t) : t.notifications = s.notifications := by
  obtain ⟨-, rfl⟩ | ⟨-, -, rfl⟩ | ⟨m, -, -, rfl⟩ | ⟨-, rfl⟩ := writeHandler_cases h <;> simp

/-- A sample that emits does so with EVT_EN set, once, with the snapshot INSTATE then holds (R220). -/
theorem takeSample_notifies {s : State} (h : (takeSample s).notifications ≠ s.notifications) :
    s.even.getLsbD 0 = true ∧ (takeSample s).instate = mkSnapshot s.params s.raw s.strap ∧
    (takeSample s).notifications = s.notifications ++ [⟨Spec.inputsStateAddr s.params, (takeSample s).instate⟩] := by
  rw [takeSample_notifications] at h ⊢
  split at h
  · next events => exact ⟨events, takeSample_instate s, by rw [if_pos events, takeSample_instate]; rfl⟩
  · exact absurd rfl h

/-- Settles O43, by what the step did (`exec_effect`): a step that took no sample emits nothing. -/
theorem onlyAcceptedSamplesNotify : Obligations.OnlyAcceptedSamplesNotify := by
  intro i s t ht changed
  cases exec_effect ht with
  | edgeSample g what kind set next =>
    subst next
    exact ⟨by rw [kind]; rfl, takeSample_notifies (s := clearPending g s) changed⟩
  | tickSample kind due next =>
    subst next
    exact ⟨by rw [kind]; rfl, takeSample_notifies (s := s) changed⟩
  | wrote r bytes u host what handler next =>
    exact absurd (by simp [next, writeHandler_notifications handler]) changed
  | pins pv what next =>
    cases next
    exact absurd rfl changed
  | answered r host next | reinit kind next | edgeOnly g what kind set next | tickOnly kind due next
  | second kind next | fire kind armed next | safe kind next =>
    subst next
    exact absurd rfl changed

end Sys2Proof.Machine

/-! # Reinit and safe state (43_control.md): proofs

The whole effect of REINIT and of FORCE_SAFE. -/

namespace Sys2Proof.Machine

/-! ## REINIT (R240) -/

/-- Settles O44: the one thing REINIT computes is the arming of OnAnyChange (`armCfg_captureCode`, R162). -/
theorem reinitRestoresTheDefaults : Obligations.ReinitRestoresTheDefaults := by
  intro x s
  rw [catchCodes_onAnyChange, ← armCfg_captureCode]
  rfl

/-! ## FORCE_SAFE (R241) -/

/-- Settles O45: it is what the instruction is defined to do. -/
theorem forceSafeDrivesTheOutputLow : Obligations.ForceSafeDrivesTheOutputLow := fun _ => rfl

end Sys2Proof.Machine

/-! # Exceptions (60_exceptions.md): proofs

Which failure reason a command word gets, and that the words with none answer Ok. -/

namespace Sys2Proof.Machine

/-! ## Reserved CMD (R142) -/

theorem exec_of_kind_reserved {i : Instr} (h : i.kind = .reservedCommand) (s : State) :
    exec i s = .next (Spec.answered (.fail .invalidCommand) s) := by
  cases i with
  | reservedCmd0 | reservedCmd4to7 | reservedCmd8toF => rfl
  | _ => cases h

/-- A word with a reserved CMD fails whatever its other fields hold. -/
theorem exec_reservedWord {c : BitVec 4} (reserved : c = 0#4 ∨ 4 ≤ c.toNat) (rsv : BitVec 4) (a t n : Byte)
    (w : Half) (s : State) : exec (decodeCommand s.params (Spec.wordOf c rsv a t n) w) s =
      .next (Spec.answered (.fail .invalidCommand) s) :=
  exec_of_kind_reserved (kind_decodeCommand_reserved s.params (by simpa [wordOf_eq_hcw] using reserved) w) s

/-! ## WRITE words, by the register table (R122) -/

theorem eq_registerAddr_of_atRow {p : Params} {a : Byte} {r : Register} (h : Spec.AtRow p a (rowOf r)) :
    a = registerAddr p r := by
  refine BitVec.eq_of_toNat_eq ?_
  rw [h, registerAddr_toNat, registerOffset_eq_offsets]

/-- A WRITE word runs the generic dispatch at its ADDR, TYPE and COUNT. -/
theorem exec_writeWord (rsv : BitVec 4) (a t n : Byte) (w : Half) (s : State) :
    exec (decodeCommand s.params (Spec.wordOf 2#4 rsv a t n) w) s = .next (dispatchWrite a t n w s) := by
  rw [wordOf_eq_hcw, decodeCommand_write _ (hcwCmd_hcw ..)]
  simp [exec_decodeWrite]

/-- At the address of a register it writes that register. -/
theorem exec_writeWord_registerAddr (r : Register) (rsv : BitVec 4) (t n : Byte) (w : Half) (s : State) :
    exec (decodeCommand s.params (Spec.wordOf 2#4 rsv (registerAddr s.params r) t n) w) s =
      .next (writeRegister r t n w s) := by
  rw [exec_writeWord, dispatchWrite, registerAt_registerAddr]

section writeWord

variable {rsv : BitVec 4} {a t n : Byte} {w : Half} {s : State}

theorem exec_writeWord_of_mistyped (inside : Spec.inWindow s.params a) (ht : t ≠ Spec.tagAt s.params a) :
    exec (decodeCommand s.params (Spec.wordOf 2#4 rsv a t n) w) s =
      .next (Spec.answered (.fail .typeMismatch) s) := by
  obtain ⟨r, rfl⟩ := exists_registerAddr (validAddr_iff_inWindow.mpr inside)
  rw [tagAt_registerAddr] at ht
  rw [exec_writeWord_registerAddr, writeRegister_of_mistyped ht]

theorem exec_writeWord_of_miscounted (inside : Spec.inWindow s.params a) (ht : t = Spec.tagAt s.params a)
    (hn : n ≠ 1#8) : exec (decodeCommand s.params (Spec.wordOf 2#4 rsv a t n) w) s =
      .next (Spec.answered (.fail .elementCountMismatch) s) := by
  obtain ⟨r, rfl⟩ := exists_registerAddr (validAddr_iff_inWindow.mpr inside)
  rw [tagAt_registerAddr] at ht
  rw [exec_writeWord_registerAddr, writeRegister_of_miscounted ht hn]

/-! A WRITE word that passes the three checks does what the handler of its register does. -/

variable (ht : t = Spec.tagAt s.params a) (hn : n = 1#8) (r : Register) (row : Spec.AtRow s.params a (rowOf r))
include ht hn row

theorem exec_writeWord_of_refused {reason : FailReason} (h : writeHandler r (payload w) s = .error reason) :
    exec (decodeCommand s.params (Spec.wordOf 2#4 rsv a t n) w) s = .next (Spec.answered (.fail reason) s) := by
  obtain rfl := eq_registerAddr_of_atRow row
  rw [tagAt_registerAddr] at ht
  rw [exec_writeWord_registerAddr, writeRegister_of_refused ht hn h]

theorem exec_writeWord_of_ok {u : State} (h : writeHandler r (payload w) s = .ok u) :
    ∃ v, exec (decodeCommand s.params (Spec.wordOf 2#4 rsv a t n) w) s = .next v ∧
      v.responses = s.responses ++ [.ok 0#16] := by
  obtain rfl := eq_registerAddr_of_atRow row
  rw [tagAt_registerAddr] at ht
  refine ⟨Spec.answered (.ok 0#16) u, ?_, ?_⟩
  · rw [exec_writeWord_registerAddr, writeRegister_of_ok ht hn h]
  · rw [← writeHandler_responses h]
    rfl

end writeWord

/-! ## The order of the checks (R264) -/

/-- Settles O22, check by check: CMD, then ADDR, TYPE and COUNT, then the write handler of the row at ADDR. -/
theorem failureReasonIsTheFirstInOrder : Obligations.FailureReasonIsTheFirstInOrder := by
  intro c rsv a t n w s
  obtain ⟨readOutside, readMistyped, -⟩ := readWordsDispatchByTheTable rsv a t n w s
  refine ⟨fun reserved => exec_reservedWord reserved .., ?address, ?type, ?count, ?handler⟩
  case address =>
    rintro (rfl | rfl) outside
    · exact readOutside outside
    · exact (exec_writeWord ..).trans (congrArg _ (dispatchWrite_outside outside t n w))
  case type =>
    rintro (rfl | rfl) inside ht
    · exact readMistyped inside ht
    · exact exec_writeWord_of_mistyped inside ht
  case count =>
    rintro rfl inside ht hn
    exact exec_writeWord_of_miscounted inside ht hn
  case handler =>
    rintro rfl ht hn
    refine ⟨fun row => exec_writeWord_of_refused ht hn .inputsState row rfl, ?enum, ?reserved, ?accepted⟩
    case enum =>
      rintro (⟨row, illegal⟩ | ⟨row, illegal⟩)
      · exact exec_writeWord_of_refused ht hn .inputCatchMode row (writeHandler_inputCatchMode_illegal illegal)
      · exact exec_writeWord_of_refused ht hn .outputMode row (writeHandler_outputMode_illegal illegal)
    case reserved =>
      rintro (row | row | row | row)
      · exact exec_writeWord_of_refused ht hn .reserved0 row rfl
      · exact exec_writeWord_of_refused ht hn .reserved1 row rfl
      · exact exec_writeWord_of_refused ht hn .reserved2 row rfl
      · exact exec_writeWord_of_refused ht hn .reserved3 row rfl
    case accepted =>
      rintro (row | row | ⟨row, legal⟩ | ⟨row, legal⟩)
      · exact exec_writeWord_of_ok ht hn .outputs row (writeHandler_outputs w s)
      · exact exec_writeWord_of_ok ht hn .evntEnable row (writeHandler_evntEnable w s)
      · obtain ⟨m, named⟩ := legalCapture_iff.mp legal
        have code := captureMode?_eq_some_iff.mp named
        exact exec_writeWord_of_ok ht hn .inputCatchMode row (writeHandler_inputCatchMode m code)
      · obtain ⟨m, named⟩ := legalOutput_iff.mp legal
        have code := outputMode?_eq_some_iff.mp named
        exact exec_writeWord_of_ok ht hn .outputMode row (writeHandler_outputMode m code)

end Sys2Proof.Machine

/-! # Reset and hazards (70_reset_and_hazards.md): proofs

The power-on values, and which host commands leave a pending pulse running. -/

namespace Sys2Proof.Machine

/-! ## Power-on (R290, R51) -/

theorem pending_powerOn (p : Params) (g : Group) : pending (State.powerOn p).pend g = false := by
  cases g <;> rfl

/-- Settles O11: power-on writes each value out, the codes of OnAnyChange and Toggle being those at place 1 of
their lists, and reset is power-on with the default parameters. -/
theorem resetLeavesThePowerOnValues : Obligations.ResetLeavesThePowerOnValues :=
  ⟨fun p => ⟨rfl, rfl, (catchCodes_onAnyChange p).symm, (omodeCodes_toggle p).symm, rfl, rfl, rfl,
    pending_powerOn p, rfl, rfl, rfl⟩, rfl, rfl, rfl⟩

/-! ## Host commands during a pending pulse (R298) -/

/-- Settles O33 by the whole effect of each command: WRITE OUTPUTS has no TMR in it, so the fire is still
enabled, and entering a mode and REINIT disarm the timer. -/
theorem hostWriteDoesNotCancelAPulse : Obligations.HostWriteDoesNotCancelAPulse := by
  intro rsv w x s us armed
  obtain ⟨outputsWritten, -⟩ := writeOutputsStoresBitZero rsv s.params.typeU8 1#8 w s
  obtain ⟨modeEntered, -⟩ := writeOutputModeRunsTheEntry rsv s.params.typeU8 1#8 w s
  refine ⟨⟨_, outputsWritten rfl rfl, armed, ?fires⟩, fun legal => ⟨_, modeEntered rfl rfl legal, rfl⟩,
    ⟨_, reinitRestoresTheDefaults x s, rfl⟩⟩
  case fires => exact ⟨_, exec_pulseFire_of_armed armed, rfl⟩

end Sys2Proof.Machine
